-- ==== Sys2Proof/Word.lean ====
section
/-! DEFINITION. The words of the block and its one enumeration: 00_scope.md rule R6 (widths), 30_encoding.md rule R73
(the direction tag). -/

namespace Sys2Proof

/-- A pin-sample code, phase B in bit 1 and phase A in bit 0 (30_encoding.md rule R70). -/
abbrev Code := BitVec 2

/-- A history window: four codes, the newest in bits 1:0 (30_encoding.md rule R71). -/
abbrev Window := BitVec 8

/-- The unsigned step count, 0 to 255 (10_state.md rule R23). -/
abbrev Count := BitVec 8

/-- A port-level command word CMD[4:0] (30_encoding.md rule R76). -/
abbrev Cmd := BitVec 5

/-- A port-level response word RSP[10:0] (30_encoding.md rule R74). -/
abbrev Rsp := BitVec 11

/-- A byte that carries a command word outside the block (DESIGN CHOICE, log entry 7). -/
abbrev Byte := BitVec 8

/-- The three direction tags DIR_NONE, DIR_CW and DIR_CCW; the fourth value of the 2-bit field is not a value, so it
cannot be written down (30_encoding.md rule R73). -/
inductive Dir where
  | none
  | cw
  | ccw
deriving DecidableEq, Repr

end Sys2Proof
end

