-- ==== Sys2Proof/Syntax.lean ====
section
/-! DEFINITION. The instructions: one constructor per row of spec/opcode_table.json (30_encoding.md rules R75, R77). Bits a
command ignores (rules R76, R79) are no part of the instruction. -/

namespace Sys2Proof

/-- The five port-level commands. A level is true for logically high (30_encoding.md rule R70); the operand order is the
spec's, phase A first. -/
inductive Instr where
  /-- RESET, 70_reset_and_hazards.md rule R200. -/
  | reset
  /-- IDLE, 40_decoder_fsm.md rule R106. -/
  | idle
  /-- OBSERVE a, b, 40_decoder_fsm.md rule R100. -/
  | observe (a b : Bool)
  /-- READ, 42_event_buffer.md rule R144. -/
  | read
  /-- READ_OBSERVE a, b, 42_event_buffer.md rule R146. -/
  | readObserve (a b : Bool)
deriving DecidableEq, Repr

/-- The mnemonic of spec/opcode_table.json. -/
def Instr.mnemonic : Instr → String
  | .reset => "RESET"
  | .idle => "IDLE"
  | .observe _ _ => "OBSERVE"
  | .read => "READ"
  | .readObserve _ _ => "READ_OBSERVE"

end Sys2Proof
end

