-- ==== Sys2Proof/Decode.lean ====
section
/-! DEFINITION. The command word's fields, the total decoder of the 32 command words (30_encoding.md rules R76, R77, R82), a
decoder of bytes that carry one command word each (DESIGN CHOICE, log entry 7), the encoder with the canonical words of rule R77, and the
assembler's spelling (rule R75). -/

namespace Sys2Proof

/-! ## The fields of a command word (30_encoding.md rules R76, R81) -/

/-- CMD[4], the reset request. -/
def Cmd.rst (w : Cmd) : Bool := w.getLsbD 4
/-- CMD[3], the consumer's READ request. -/
def Cmd.rd (w : Cmd) : Bool := w.getLsbD 3
/-- CMD[2], the producer's OBSERVE request. -/
def Cmd.obs (w : Cmd) : Bool := w.getLsbD 2
/-- CMD[1], the phase B level. -/
def Cmd.b (w : Cmd) : Bool := w.getLsbD 1
/-- CMD[0], the phase A level. -/
def Cmd.a (w : Cmd) : Bool := w.getLsbD 0

/-- The word with the five request and data lines put side by side, rst in the top bit. -/
def Cmd.ofLines (rst rd obs b a : Bool) : Cmd :=
  BitVec.ofBool rst ++ BitVec.ofBool rd ++ BitVec.ofBool obs ++ BitVec.ofBool b ++ BitVec.ofBool a

/-! ## Decoding -/

/-- The total decoding of the command word (30_encoding.md rule R77): rst overrides everything, then rd and obs select the
row, and a and b are read only where obs is set. -/
def decodeCmd (w : Cmd) : Instr :=
  match Cmd.rst w, Cmd.rd w, Cmd.obs w with
  | true, _, _ => .reset
  | false, false, false => .idle
  | false, false, true => .observe (Cmd.a w) (Cmd.b w)
  | false, true, false => .read
  | false, true, true => .readObserve (Cmd.a w) (Cmd.b w)

/-- Why a list of bytes holds no command. -/
inductive DecodeError where
  /-- There is no byte left. Safe: nothing runs. -/
  | noByte
  /-- One of the byte's bits 7:5 is set: a command word has five bits (30_encoding.md rule R82). Safe: nothing runs. -/
  | notACommandWord (b : Byte)
deriving DecidableEq, Repr

/-- The command word a byte carries in its low five bits, the upper three bits clear (DESIGN CHOICE, log entry 7). -/
def cmdOfByte (b : Byte) : Except DecodeError Cmd :=
  if b.toNat < 32 then .ok (b.setWidth 5) else .error (.notACommandWord b)

/-- The next instruction of a list of bytes and the bytes after it. -/
def decodeBytes : List Byte → Except DecodeError (Instr × List Byte)
  | [] => .error .noByte
  | b :: rest =>
    match cmdOfByte b with
    | .ok w => .ok (decodeCmd w, rest)
    | .error e => .error e

/-! ## Encoding -/

/-- The canonical command word, ignored bits 0 (30_encoding.md rule R77). -/
def encode : Instr → Cmd
  | .reset => Cmd.ofLines true false false false false
  | .idle => Cmd.ofLines false false false false false
  | .observe a b => Cmd.ofLines false false true b a
  | .read => Cmd.ofLines false true false false false
  | .readObserve a b => Cmd.ofLines false true true b a

/-- The byte that carries the canonical command word. -/
def encodeByte (i : Instr) : Byte := (encode i).setWidth 8

/-- The bits of the command word that its row reads (30_encoding.md rules R76, R77): rst alone where it is set; rst, rd and
obs where obs is clear; all five where obs is set. -/
def careMask (w : Cmd) : Cmd :=
  match Cmd.rst w, Cmd.obs w with
  | true, _ => 0x10
  | false, false => 0x1C
  | false, true => 0x1F

/-! ## The opcode table's words -/

/-- The command word of an instruction whose bits are w, bit 0 the least significant: nbits of them, the bits above clear.
There is none where a bit above bit 4 is set. -/
def tableCmd (nbits w : Nat) : Option Cmd :=
  let v := w % 2 ^ nbits
  if v < 32 then some (BitVec.ofNat 5 v) else none

/-- The instruction the decoder reads from an instruction whose bits are w as spec/opcode_table.json numbers them: the word
is laid out in one byte and given to `decodeBytes`. -/
def decodeTableWord (nbits w : Nat) : Option Instr :=
  let v := w % 2 ^ nbits
  if v < 256 then
    match decodeBytes [BitVec.ofNat 8 v] with
    | .ok (i, _) => some i
    | .error _ => none
  else none

/-! ## The assembler's spelling (30_encoding.md rule R75, decision D16) -/

/-- A level as the digit 0 or 1. -/
def levelDigit (v : Bool) : String := if v then "1" else "0"

/-- One operation as a line of the spec's programs: the mnemonic in capitals, phase A first. -/
def Instr.render : Instr → String
  | .reset => "RESET"
  | .idle => "IDLE"
  | .observe a b => "OBSERVE " ++ levelDigit a ++ ", " ++ levelDigit b
  | .read => "READ"
  | .readObserve a b => "READ_OBSERVE " ++ levelDigit a ++ ", " ++ levelDigit b

end Sys2Proof
end

