-- ==== Sys2Proof/Config.lean ====
section
/-! DEFINITION. The parameters the spec leaves open (00_scope.md rule R6, marked decision or OPEN). Their values for this
hardware are `Machine.params` in Machine/Params.lean. No result of any operation is left undefined by the spec, so the model
has no free value. -/

namespace Sys2Proof

/-- What an implementation fixes: the two reference sequences and the reset value of the history window
(92_eei_decisions.md D2, D3). -/
structure Params where
  /-- REF_CW, the window that counts as one clockwise step. -/
  refCw : Window
  /-- REF_CCW, the window that counts as one counter-clockwise step. -/
  refCcw : Window
  /-- HW_RESET, the history window after reset. -/
  hwReset : Window
deriving DecidableEq, Repr

/-- The same block with the two reference sequences exchanged, the opposite assignment of decision D2. -/
def Params.exchange (p : Params) : Params := { p with refCw := p.refCcw, refCcw := p.refCw }

end Sys2Proof
end

