-- ==== Sys2Proof/Machine/Params.lean ====
section
/-! DEFINITION. The values this hardware takes for the parameters of 00_scope.md rule R6. -/

namespace Sys2Proof.Machine

/-- This hardware's parameters: REF_CW = 0x4B, REF_CCW = 0x87, HW_RESET = 0xFF (30_encoding.md rule R72 with decision D2,
10_state.md rule R34 with decision D3; PRESUMED, log entry 3, and DESIGN CHOICE, log entry 4). -/
def params : Params := { refCw := 0x4B, refCcw := 0x87, hwReset := 0xFF }

/-- COUNT_MAX, the saturation value (00_scope.md rule R6). -/
def countMax : Count := 255

/-- REST_CODE, both lines high (30_encoding.md rule R70). -/
def restCode : Code := 0b11

/-- DIR_RESET, the tag after reset (10_state.md rule R35; DESIGN CHOICE, log entry 5). -/
def dirReset : Dir := .none

/-- COUNT_RESET, the count after reset (10_state.md rule R33). -/
def countReset : Count := 0

/-- The numbers of the tags in the 2-bit field (30_encoding.md rule R73; DESIGN CHOICE, log entry 6). -/
def dirBits : Dir → BitVec 2
  | .none => 0b00
  | .cw => 0b01
  | .ccw => 0b10

end Sys2Proof.Machine
end

