-- ==== Sys2Proof/Machine/State.lean ====
section
/-! DEFINITION. The state as plain data: the block's 18 bits (10_state.md rule R20) and the port-level wrapper's input and
output (DESIGN CHOICE, log entries 1 and 2); the reasons a step can stop; the state after reset. -/

namespace Sys2Proof.Machine

/-- The StepEvent cell EV: a direction tag and a saturating count (10_state.md rule R23). -/
structure StepEvent where
  /-- EV.dir, the direction of the pending run, or an initial or stale tag when the count is 0 (rule R25). -/
  dir : Dir
  /-- EV.count, 0 to 255; 0 means empty whatever the tag (rule R24). -/
  count : Count
deriving DecidableEq, Repr

/-- The whole state of the block: the triple (HW, EV.dir, EV.count) of 10_state.md rule R20. -/
structure Block where
  /-- HW, the history window (rule R21). -/
  hw : Window
  /-- EV, the one cell the producer and the consumer share (20_memory.md rule R51). -/
  ev : StepEvent
deriving DecidableEq, Repr

/-- The response of READ at the operation level (30_encoding.md rule R74). -/
inductive ReadResult where
  /-- Nothing is pending. -/
  | noEvent
  /-- A run of n steps of direction d. -/
  | event (d : Dir) (n : Count)
deriving DecidableEq, Repr

/-- The block with its port: the commands the environment has already chosen, next first, and what the steps so far have
answered, oldest first: nothing for a step with no READ, the READ's result for a step with one (DESIGN CHOICE, log entries 1 and 2). -/
structure State where
  block : Block
  cmds : List Cmd
  answers : List (Option ReadResult)
deriving DecidableEq, Repr

/-- Why the machine can fault: it cannot. No operation raises anything (60_exceptions.md rule R170), so no constructor
exists. -/
inductive Fault where
deriving DecidableEq, Repr

/-- Why an instruction can be refused. -/
inductive Refusal where
  /-- An arm of `exec` for an instruction without a meaning answers this. Safe. No arm does: all five have one. -/
  | notModelled (mnemonic : String)
deriving DecidableEq, Repr

/-- The block as RESET leaves it, for given parameters (70_reset_and_hazards.md rule R200). -/
def Block.ofParams (p : Params) : Block := { hw := p.hwReset, ev := { dir := dirReset, count := countReset } }

/-- The machine right after reset (10_state.md rule R38, 70_reset_and_hazards.md rule R201): no command is waiting and no step
has been made. -/
def State.reset : State := { block := Block.ofParams params, cmds := [], answers := [] }

end Sys2Proof.Machine
end

