-- ==== Sys2Proof/Machine/Flags.lean ====
section
/-! DEFINITION. The block stores no flag; these are the predicates derived from the count (10_state.md rules R24, R28). None
reads the tag. -/

namespace Sys2Proof.Machine

/-- empty: the count is 0. -/
def isEmpty (e : StepEvent) : Bool := e.count == 0

/-- pending: the count is not 0. -/
def isPending (e : StepEvent) : Bool := e.count != 0

/-- saturated: the count is 255. -/
def isSaturated (e : StepEvent) : Bool := e.count == countMax

end Sys2Proof.Machine
end

