-- ==== Sys2Proof/Machine/Operands.lean ====
section
/-! DEFINITION. The one operand form, two levels packed into a code, and the slots of a window (30_encoding.md rules R70, R71;
10_state.md rule R21). -/

namespace Sys2Proof.Machine

/-- The code of a pin sample: phase B is bit 1, phase A is bit 0 (30_encoding.md rule R70). -/
def packCode (a b : Bool) : Code := BitVec.ofBool b ++ BitVec.ofBool a

/-- HW.slot(k) = HW[2k+1:2k], the k-th most recent code (00_scope.md rule R8). -/
def slot (h : Window) (k : Nat) : Code := h.extractLsb' (2 * k) 2

/-- The window that holds four codes, given from oldest to newest (30_encoding.md rule R71). -/
def windowOf (c3 c2 c1 c0 : Code) : Window := c3 ++ c2 ++ c1 ++ c0

/-- The phase A level of a code. -/
def codeA (c : Code) : Bool := c.getLsbD 0

/-- The phase B level of a code. -/
def codeB (c : Code) : Bool := c.getLsbD 1

end Sys2Proof.Machine
end

