-- ==== Sys2Proof/Machine/Validator.lean ====
section
/-! DEFINITION. The sub-block gray_code_validator: CLASSIFY (41_gray_code_validator.md rule R120). -/

namespace Sys2Proof.Machine

/-- CLASSIFY(w): an exact comparison of all eight bits with the two reference sequences, the counter-clockwise one first; any
other window gives DIR_NONE, which is a normal result (41_gray_code_validator.md rule R120). -/
def classify (p : Params) (w : Window) : Dir :=
  if w = p.refCcw then .ccw
  else if w = p.refCw then .cw
  else .none

end Sys2Proof.Machine
end

