-- ==== Sys2Proof/Machine/Ops.lean ====
section
/-! DEFINITION. The named operations on the block: the shift, RECORD_STEP, OBSERVE, READ, RESET; the response word; taking the
next command from the port and answering on it. The block has no trap entry and no return from one (60_exceptions.md rules
R170, R177), so there is no operation for them; the critical section that stands nearest to them is in Machine/Split.lean. -/

namespace Sys2Proof.Machine

/-! ## The block's operations -/

/-- The shift of step 3 of OBSERVE: two bits to the left without loss, the code put into the vacated bits, the oldest code
cut off (40_decoder_fsm.md rules R100, R102). -/
def shiftIn (h : Window) (c : Code) : Window := ((h ++ 0#2) ||| c.setWidth 10).extractLsb' 0 8

/-- RECORD_STEP(d): the same tag increments and saturates, another tag overwrites (42_event_buffer.md rule R140). OBSERVE
never calls it with DIR_NONE. -/
def recordStep (d : Dir) (e : StepEvent) : StepEvent :=
  if e.dir = d then
    if isSaturated e then e else { e with count := e.count + 1 }
  else { dir := d, count := 1 }

/-- OBSERVE(a, b): nothing for the code of slot 0; else shift, classify the new window and record the step it completes
(40_decoder_fsm.md rule R100). -/
def observe (p : Params) (a b : Bool) (k : Block) : Block :=
  let code := packCode a b
  if code = slot k.hw 0 then k
  else
    let h := shiftIn k.hw code
    match classify p h with
    | .ccw => { hw := h, ev := recordStep .ccw k.ev }
    | .cw => { hw := h, ev := recordStep .cw k.ev }
    | .none => { k with hw := h }

/-- The state READ leaves: the count cleared if it was not 0, the tag and the window as they were (42_event_buffer.md rule
R144). -/
def takeEvent (k : Block) : Block :=
  if isEmpty k.ev then k else { k with ev := { k.ev with count := 0 } }

/-- The response READ gives, decided on the count alone (42_event_buffer.md rule R144). -/
def readResult (k : Block) : ReadResult :=
  if isEmpty k.ev then .noEvent else .event k.ev.dir k.ev.count

/-- RESET writes all of the state and reads none of it (70_reset_and_hazards.md rule R200). -/
def resetBlock (p : Params) (_ : Block) : Block := Block.ofParams p

/-! ## The response word (30_encoding.md rule R74; DESIGN CHOICE, log entry 6) -/

/-- A READ's result as the word valid, dir, count. -/
def encodeResult : ReadResult → Rsp
  | .noEvent => 0x000
  | .event d n => 1#1 ++ dirBits d ++ n

/-- The response word of a step: 0x000 for a step whose command holds no READ. -/
def answerWord : Option ReadResult → Rsp
  | none => 0x000
  | some r => encodeResult r

/-- rsp_valid, RSP[10] (30_encoding.md rule R81). -/
def rspValid (r : Rsp) : Bool := r.getLsbD 10
/-- rsp_dir, RSP[9:8]. -/
def rspDir (r : Rsp) : BitVec 2 := r.extractLsb' 8 2
/-- rsp_count, RSP[7:0]. -/
def rspCount (r : Rsp) : Count := r.extractLsb' 0 8

/-- The port-level observation: the response words, one per step, in order (70_reset_and_hazards.md rule R212). -/
def State.responses (s : State) : List Rsp := s.answers.map answerWord

/-- The operation-level observation: the READ responses in order (70_reset_and_hazards.md rule R212). -/
def State.observed (s : State) : List ReadResult := s.answers.filterMap id

/-! ## The port -/

/-- What a step in which nothing is commanded finds on the port: the word of IDLE (60_exceptions.md rule R181, 40_decoder_fsm.md
rule R106; DESIGN CHOICE, log entry 1). -/
def idleWord : Cmd := 0x00

/-- The command word of this step. -/
def State.nextCmd (s : State) : Cmd := s.cmds.headD idleWord

/-- The state once this step's command has been taken from the port. -/
def State.dropCmd (s : State) : State := { s with cmds := s.cmds.tail }

/-- The state with a command presented ahead of those already waiting. -/
def State.present (w : Cmd) (s : State) : State := { s with cmds := w :: s.cmds }

/-- The end of every instruction: the block's new state, and the step's answer put after the earlier ones. -/
def State.finish (s : State) (k : Block) (r : Option ReadResult) : State :=
  { s with block := k, answers := s.answers ++ [r] }

end Sys2Proof.Machine
end

