-- ==== Sys2Proof/Machine/Decoder.lean ====
section
/-! DEFINITION. The family of 40_decoder_fsm.md: the meanings of OBSERVE and IDLE, and OBSERVE's Mealy machine (rule R104). -/

namespace Sys2Proof.Machine

/-- OBSERVE a, b (40_decoder_fsm.md rule R100): no response. -/
def execObserve (a b : Bool) (s : State) : Host.Outcome State Fault Refusal :=
  .next (s.finish (observe params a b s.block) none)

/-- IDLE (40_decoder_fsm.md rule R106): nothing is read or written and there is no response. -/
def execIdle (s : State) : Host.Outcome State Fault Refusal :=
  .next (s.finish s.block none)

/-- next(h, c), the decoder's transition function (40_decoder_fsm.md rule R104). -/
def mealyNext (h : Window) (c : Code) : Window := if c = slot h 0 then h else shiftIn h c

/-- out(h, c), the decoder's output function: the direction of the step this sample records, or DIR_NONE (40_decoder_fsm.md
rule R104). -/
def mealyOut (p : Params) (h : Window) (c : Code) : Dir :=
  if c = slot h 0 then .none else classify p (shiftIn h c)

end Sys2Proof.Machine
end

