-- ==== Sys2Proof/Machine/EventBuffer.lean ====
section
/-! DEFINITION. The family of 42_event_buffer.md: the meanings of READ and READ_OBSERVE. -/

namespace Sys2Proof.Machine

/-- READ (42_event_buffer.md rule R144). -/
def execRead (s : State) : Host.Outcome State Fault Refusal :=
  .next (s.finish (takeEvent s.block) (some (readResult s.block)))

/-- READ_OBSERVE a, b (42_event_buffer.md rule R146; DESIGN CHOICE, log entry 8): READ on the state before the step, then OBSERVE on the state
READ left, one indivisible step with READ's response. -/
def execReadObserve (a b : Bool) (s : State) : Host.Outcome State Fault Refusal :=
  .next (s.finish (observe params a b (takeEvent s.block)) (some (readResult s.block)))

end Sys2Proof.Machine
end

