-- ==== Sys2Proof/Machine/Reset.lean ====
section
/-! DEFINITION. The family of 70_reset_and_hazards.md: the meaning of RESET. -/

namespace Sys2Proof.Machine

/-- RESET (70_reset_and_hazards.md rule R200; DESIGN CHOICE, log entry 9): a pending event is discarded and there is no response. -/
def execReset (s : State) : Host.Outcome State Fault Refusal :=
  .next (s.finish (resetBlock params s.block) none)

end Sys2Proof.Machine
end

