-- ==== Sys2Proof/Machine/Dispatch.lean ====
section
/-! DEFINITION. exec: one arm per instruction. -/

namespace Sys2Proof.Machine

/-- The meaning of each instruction. -/
def exec (i : Instr) (s : State) : Host.Outcome State Fault Refusal :=
  match i with
  | .reset => Sys2Proof.Machine.execReset s
  | .idle => Sys2Proof.Machine.execIdle s
  | .observe a b => Sys2Proof.Machine.execObserve a b s
  | .read => Sys2Proof.Machine.execRead s
  | .readObserve a b => Sys2Proof.Machine.execReadObserve a b s

end Sys2Proof.Machine
end

