-- ==== Sys2Proof/Machine/Step.lean ====
section
/-! DEFINITION. One step: take the command word from the port, decode it, run it (70_reset_and_hazards.md rule R211). -/

namespace Sys2Proof.Machine

/-- One step of the port-level machine: one command word is taken and one answer given. -/
def step (s : State) : Host.Outcome State Fault Refusal :=
  exec (decodeCmd s.nextCmd) s.dropCmd

/-- The state with the command word of these bits presented as the next one; unchanged where the bits are no command word,
since then there is nothing to present (DESIGN CHOICE, log entry 15). -/
def State.withFetchWord (s : State) (nbits w : Nat) : State :=
  match tableCmd nbits w with
  | some c => s.present c
  | none => s

end Sys2Proof.Machine
end

