-- ==== Sys2Proof/Machine/Pseudo.lean ====
section
/-! DEFINITION. The pseudo-operations of 30_encoding.md rule R80 (decision D16): abbreviations of OBSERVE sequences, with no
encoding of their own. -/

namespace Sys2Proof.Machine

/-- OBSC cc: OBSERVE given as a code. -/
def obsc (c : Code) : Instr := .observe (codeA c) (codeB c)

/-- REST: the encoder is at rest. -/
def rest : Instr := .observe true true

/-- The samples that make an encoder at rest walk through the four codes of a window, oldest first. -/
def pathOf (w : Window) : List Instr := [obsc (slot w 3), obsc (slot w 2), obsc (slot w 1), obsc (slot w 0)]

/-- CWSTEP, the canonical path of REF_CW, to be used when slot 0 holds the rest code. It follows the assignment of decision D2
(log entry 18). -/
def cwStep (p : Params) : List Instr := pathOf p.refCw

/-- CCWSTEP, the canonical path of REF_CCW, to be used when slot 0 holds the rest code. It follows the assignment of decision D2
(log entry 18). -/
def ccwStep (p : Params) : List Instr := pathOf p.refCcw

end Sys2Proof.Machine
end

