-- ==== Sys2Proof/Machine/Operations.lean ====
section
/-! DEFINITION. The operation level (00_scope.md rule R5(a)): the operations as labels of a transition system, who may issue
each (rules R9, R10; 60_exceptions.md rule R179), their total order (20_memory.md rule R54), what a run answers
(70_reset_and_hazards.md rule R212), and the operations each command word denotes (30_encoding.md rule R77). -/

namespace Sys2Proof.Machine

/-- The three agents that act on the block (00_scope.md rule R9). -/
inductive Agent where
  | producer
  | consumer
  | environment
deriving DecidableEq, Repr

/-- The operations an agent can issue. The internal CLASSIFY and RECORD_STEP are none, and the moves the environment's duties
forbid (93_implementation_defined.md U1 to U4) have no constructor (DEDUCED, log entry 13). -/
inductive Op where
  | observe (a b : Bool)
  | read
  | reset
deriving DecidableEq, Repr

/-- The one agent that may issue an operation (00_scope.md rule R10). -/
def Op.issuer : Op → Agent
  | .observe _ _ => .producer
  | .read => .consumer
  | .reset => .environment

/-- One operation as one indivisible transition (20_memory.md rule R52): the new state, and READ's response. -/
def runOp (p : Params) : Op → Block → Block × Option ReadResult
  | .observe a b, k => (observe p a b k, none)
  | .read, k => (takeEvent k, some (readResult k))
  | .reset, k => (resetBlock p k, none)

/-- A list of operations in their total order: the last state, and the READ responses in order (20_memory.md rule R54,
70_reset_and_hazards.md rule R212). -/
def runOps (p : Params) : List Op → Block → Block × List ReadResult
  | [], k => (k, [])
  | o :: os, k =>
    ((runOps p os (runOp p o k).1).1, (runOp p o k).2.toList ++ (runOps p os (runOp p o k).1).2)

/-- The operation-level meaning of a command: at most one READ and then at most one OBSERVE, or one RESET (30_encoding.md rule
R77). -/
def opsOf : Instr → List Op
  | .reset => [.reset]
  | .idle => []
  | .observe a b => [.observe a b]
  | .read => [.read]
  | .readObserve a b => [.read, .observe a b]

/-- The OBSERVE that carries a given code. -/
def Op.observeCode (c : Code) : Op := .observe (codeA c) (codeB c)

/-- A total order of the operations of two agents that respects each one's own order; nothing else is fixed where they do not
synchronise (20_memory.md rule R54). -/
inductive Interleaves : List Op → List Op → List Op → Prop where
  | done : Interleaves [] [] []
  | left (o : Op) {xs ys zs : List Op} (h : Interleaves xs ys zs) : Interleaves (o :: xs) ys (o :: zs)
  | right (o : Op) {xs ys zs : List Op} (h : Interleaves xs ys zs) : Interleaves xs (o :: ys) (o :: zs)

end Sys2Proof.Machine
end

