-- ==== Sys2Proof/Machine/Split.lean ====
section
/-! DEFINITION. The split realisation of READ (20_memory.md rule R56; 60_exceptions.md rules R174 to R178): the same block, the
host's producer-enable flag PE, and one READ made of separate statements between which an asynchronous producer could run if
PE let it. PE and the saved copy are environment state (10_state.md rules R31, R32), so they stand here and not in `State`
(DESIGN CHOICE, log entries 11 and 12). -/

namespace Sys2Proof.Machine

/-- How far a READ_split has come, with its locals. -/
inductive ReadPhase where
  /-- No READ is in progress. -/
  | outside
  /-- After CS_ENTER: saved holds the prior PE. -/
  | entered (saved : Bool)
  /-- The count was not 0 and the pair has been copied; the cell is not yet cleared. -/
  | copied (saved : Bool) (d : Dir) (n : Count)
  /-- The response is settled; CS_EXIT is next. -/
  | leaving (saved : Bool) (r : ReadResult)
deriving DecidableEq, Repr

/-- The block in its split setting, with the responses given so far, oldest first. -/
structure SplitState where
  block : Block
  /-- PE: an asynchronous producer may run. Its reset value is the host's (10_state.md rule R31). -/
  pe : Bool
  phase : ReadPhase
  answers : List ReadResult
deriving DecidableEq, Repr

/-- The moves of the two contexts and of the host. Which one comes next is the environment's choice. -/
inductive SplitMove where
  /-- CS_ENTER: save PE and shut the asynchronous producer out, one indivisible move. -/
  | csEnter
  /-- Inspect the count and, when it is not 0, copy the pair. -/
  | inspect
  /-- Clear the count; the tag is left as it is. -/
  | clear
  /-- CS_EXIT: restore PE and answer. -/
  | csExit
  /-- An OBSERVE of an asynchronous producer, possible only while PE is set. -/
  | sample (a b : Bool)
  /-- An OBSERVE of a producer in the consumer's own sequential context, which cannot run inside a READ whatever PE is. -/
  | poll (a b : Bool)
  /-- The host masks or unmasks the producer outside a READ, as an outer critical section does (60_exceptions.md rule R178). -/
  | hostSet (v : Bool)
deriving DecidableEq, Repr

/-- One move; none where the agent has no such move in this state. A producer invocation that falls due while PE is clear is
not latched: it has no move, and may come, or not, once PE is set again (60_exceptions.md rule R175). -/
def splitStep (p : Params) (m : SplitMove) (s : SplitState) : Option SplitState :=
  match m, s.phase with
  | .csEnter, .outside => some { s with pe := false, phase := .entered s.pe }
  | .inspect, .entered saved =>
    if isEmpty s.block.ev then some { s with phase := .leaving saved .noEvent }
    else some { s with phase := .copied saved s.block.ev.dir s.block.ev.count }
  | .clear, .copied saved d n =>
    some { s with block := { s.block with ev := { s.block.ev with count := 0 } }, phase := .leaving saved (.event d n) }
  | .csExit, .leaving saved r => some { s with pe := saved, phase := .outside, answers := s.answers ++ [r] }
  | .sample a b, _ => if s.pe then some { s with block := observe p a b s.block } else none
  | .poll a b, .outside => some { s with block := observe p a b s.block }
  | .hostSet v, .outside => some { s with pe := v }
  | _, _ => none

/-- A list of moves, if every one of them is possible in its turn. -/
def splitRun (p : Params) : List SplitMove → SplitState → Option SplitState
  | [], s => some s
  | m :: ms, s => (splitStep p m s).bind (splitRun p ms)

/-- The indivisible operations a list of moves stands for: READ at its CS_ENTER, OBSERVE at the producer's move (20_memory.md
rule R56). -/
def SplitMove.ops : SplitMove → List Op
  | .csEnter => [.read]
  | .inspect => []
  | .clear => []
  | .csExit => []
  | .sample a b => [.observe a b]
  | .poll a b => [.observe a b]
  | .hostSet _ => []

end Sys2Proof.Machine
end

