-- ==== Sys2Proof/WellFormed.lean ====
section
/-! DEFINITION. What a term must satisfy to stand for something of the spec: instructions (30_encoding.md rule R78),
parameters (92_eei_decisions.md D2, D3) and response words (30_encoding.md rule R74). -/

namespace Sys2Proof

/-- Every instruction is well formed: there is no illegal command and no illegal operand (30_encoding.md rule R78). -/
def Instr.wellFormed : Instr → Bool
  | .reset => true
  | .idle => true
  | .observe _ _ => true
  | .read => true
  | .readObserve _ _ => true

/-- The references are 0x4B and 0x87 in one order or the other (30_encoding.md rule R72, decision D2). -/
def Params.refsWellFormed (p : Params) : Bool :=
  (p.refCw == 0x4B && p.refCcw == 0x87) || (p.refCw == 0x87 && p.refCcw == 0x4B)

/-- The reset window is 0x00 or 0xFF (decision D3). -/
def Params.hwResetWellFormed (p : Params) : Bool := p.hwReset == 0x00 || p.hwReset == 0xFF

/-- The parameters the spec admits. -/
def Params.wellFormed (p : Params) : Bool := p.refsWellFormed && p.hwResetWellFormed

/-- The 511 response words that ever occur: 0x000, 0x501 to 0x5FF and 0x601 to 0x6FF (30_encoding.md rule R74). -/
def Rsp.wellFormed (r : Rsp) : Bool :=
  r == 0x000 || (decide (0x501 ≤ r.toNat) && decide (r.toNat ≤ 0x5FF)) ||
    (decide (0x601 ≤ r.toNat) && decide (r.toNat ≤ 0x6FF))

end Sys2Proof
end

