-- ==== Sys2Proof/Safety.lean ====
section
/-! DEFINITION. What the claims speak of: the invariants of the reachable states, and the spec's own second descriptions of the
block's behaviour (the deduplicated samples, the steps since the last READ, the exchange of the two directions), each written
without the operations it is compared with; and the relations that carry a claim about runs from one step to the next. -/

namespace Sys2Proof

/-! ## Invariants -/

/-- The 121 windows 10_state.md rule R37 describes: 0xFF, one or two new codes after the reset filler, or four codes of which
each differs from the one before it. -/
def windowReachable (h : Window) : Bool :=
  let s0 := Machine.slot h 0
  let s1 := Machine.slot h 1
  let s2 := Machine.slot h 2
  let s3 := Machine.slot h 3
  (s3 == 0b11 && s2 == 0b11 && s1 == 0b11) ||
    (s3 == 0b11 && s2 == 0b11 && s1 != 0b11 && s0 != s1) ||
    (s3 != s2 && s2 != s1 && s1 != s0)

/-- All 256 windows, reachable or not. -/
def allWindows : List Window := (List.range 256).map (BitVec.ofNat 8)

/-- Every two neighbouring slots hold different codes. -/
def neighboursDiffer (h : Window) : Bool :=
  Machine.slot h 3 != Machine.slot h 2 && Machine.slot h 2 != Machine.slot h 1 && Machine.slot h 1 != Machine.slot h 0

/-- Two codes that differ in exactly one bit. -/
def oneBitApart (c d : Code) : Bool := c ^^^ d == 0b01 || c ^^^ d == 0b10

/-- Every two neighbouring slots differ in exactly one bit: Gray-valid in the sense of 41_gray_code_validator.md rule R125. -/
def grayValid (h : Window) : Bool :=
  oneBitApart (Machine.slot h 3) (Machine.slot h 2) && oneBitApart (Machine.slot h 2) (Machine.slot h 1) &&
    oneBitApart (Machine.slot h 1) (Machine.slot h 0)

/-- A pending cell never holds DIR_NONE (10_state.md rule R27). -/
def Machine.StepEvent.legal (e : Machine.StepEvent) : Bool := e.count == 0 || e.dir != .none

/-- The invariant of the machine: a window of rule R37, a cell of rule R27, and only response words of rule R74. -/
abbrev Machine.State.Inv (s : Machine.State) : Prop :=
  windowReachable s.block.hw = true ∧ s.block.ev.legal = true ∧ ∀ r ∈ s.responses, Rsp.wellFormed r = true

/-- While a READ_split is in progress the asynchronous producer is shut out (60_exceptions.md rule R174). -/
abbrev Machine.SplitState.Inv (s : Machine.SplitState) : Prop := s.phase = .outside ∨ s.pe = false

/-! ## The split READ as an indivisible one -/

/-- The block and the responses a split state stands for, a READ in progress counted as complete since its CS_ENTER
(20_memory.md rule R56). -/
def Machine.SplitState.asIndivisible (s : Machine.SplitState) : Machine.Block × List Machine.ReadResult :=
  match s.phase with
  | .outside => (s.block, s.answers)
  | .entered _ => (Machine.takeEvent s.block, s.answers ++ [Machine.readResult s.block])
  | .copied _ d n => (Machine.takeEvent s.block, s.answers ++ [.event d n])
  | .leaving _ r => (s.block, s.answers ++ [r])

/-! ## Samples as codes -/

/-- The codes appended after a current last code l: each that differs from its predecessor (40_decoder_fsm.md rule R105). -/
def dedupAfter (l : Code) : List Code → List Code
  | [] => []
  | c :: cs => if c = l then dedupAfter l cs else c :: dedupAfter c cs

/-- The window that holds the last four of a list of codes, for a list of at least four. -/
def lastFourWindow (cs : List Code) : Window :=
  match cs.reverse with
  | c0 :: c1 :: c2 :: c3 :: _ => Machine.windowOf c3 c2 c1 c0
  | _ => 0

/-- The window after a list of sampled codes. -/
def windowAfter (h : Window) (cs : List Code) : Window := cs.foldl Machine.mealyNext h

/-- The directions a list of sampled codes makes the decoder put out, DIR_NONE for a sample that records nothing. -/
def outputs (p : Params) : Window → List Code → List Dir
  | _, [] => []
  | h, c :: cs => Machine.mealyOut p h c :: outputs p (Machine.mealyNext h c) cs

/-- Two windows that hold the same newest codes, and in their remaining older slots the filler 11 and the filler 00: what the
two admitted reset windows become under the same samples (10_state.md rule R36). -/
def sameButFiller (h h' : Window) : Bool :=
  (List.range 5).any fun j => (List.range 4).all fun i =>
    if i < j then Machine.slot h i == Machine.slot h' i else Machine.slot h i == 0b11 && Machine.slot h' i == 0b00

/-- How many of the samples shift the window and record nothing (41_gray_code_validator.md rule R124). -/
def quietShifts (p : Params) : Window → List Code → Nat
  | _, [] => 0
  | h, c :: cs =>
    (if c ≠ Machine.slot h 0 ∧ Machine.mealyOut p h c = .none then 1 else 0) + quietShifts p (Machine.mealyNext h c) cs

/-! ## The steps since the last READ (42_event_buffer.md rule R147) -/

/-- What rule R147 reads off the operations so far: the decoder's window, and the directions of the steps recorded after the
last READ or reset, oldest first. -/
structure History where
  hw : Window
  since : List Dir
deriving DecidableEq, Repr

/-- The history after one more operation. It never looks at the event cell. -/
def History.after (p : Params) (g : History) : Machine.Op → History
  | .observe a b =>
    { hw := Machine.mealyNext g.hw (Machine.packCode a b)
      since :=
        if Machine.mealyOut p g.hw (Machine.packCode a b) = .none then g.since
        else g.since ++ [Machine.mealyOut p g.hw (Machine.packCode a b)] }
  | .read => { g with since := [] }
  | .reset => { hw := p.hwReset, since := [] }

/-- The length of the longest suffix of ds whose elements all equal d. -/
def trailingRun (d : Dir) (ds : List Dir) : Nat := (ds.reverse.takeWhile (fun x => x == d)).length

/-- The response rule R147 gives for the steps since the last READ: nothing, or the last direction and the clamped length of
its unbroken run. -/
def expectedResult (ds : List Dir) : Machine.ReadResult :=
  match ds.getLast? with
  | none => .noEvent
  | some d => .event d (BitVec.ofNat 8 (min (trailingRun d ds) 255))

/-- The block is as rule R147 reads it off the history: the same window, and for READ the response of the steps since the last
READ. -/
abbrev Machine.Block.Follows (k : Machine.Block) (g : History) : Prop :=
  k.hw = g.hw ∧ Machine.readResult k = expectedResult g.since

/-- The responses rule R147 gives for a list of operations. -/
def expectedResults (p : Params) : History → List Machine.Op → List Machine.ReadResult
  | _, [] => []
  | g, .read :: os => expectedResult g.since :: expectedResults p (g.after p .read) os
  | g, .observe a b :: os => expectedResults p (g.after p (.observe a b)) os
  | g, .reset :: os => expectedResults p (g.after p .reset) os

/-- The directions of all the steps a list of operations records, oldest first. -/
def stepsRecorded (p : Params) : Window → List Machine.Op → List Dir
  | _, [] => []
  | h, .observe a b :: os =>
    (if Machine.mealyOut p h (Machine.packCode a b) = .none then [] else [Machine.mealyOut p h (Machine.packCode a b)]) ++
      stepsRecorded p (Machine.mealyNext h (Machine.packCode a b)) os
  | h, .read :: os => stepsRecorded p h os
  | _, .reset :: os => stepsRecorded p p.hwReset os

/-- The number of steps a READ response reports. -/
def reported : Machine.ReadResult → Nat
  | .noEvent => 0
  | .event _ n => n.toNat

/-! ## Exchanging the two directions (30_encoding.md rule R72, 70_reset_and_hazards.md rule R209) -/

/-- The tags with the two directions exchanged. -/
def Dir.exchange : Dir → Dir
  | .none => .none
  | .cw => .ccw
  | .ccw => .cw

/-- The block with the directions exchanged; the window is untouched. -/
def Machine.Block.exchange (k : Machine.Block) : Machine.Block :=
  { k with ev := { k.ev with dir := k.ev.dir.exchange } }

/-- The response with the directions exchanged. -/
def Machine.ReadResult.exchange : Machine.ReadResult → Machine.ReadResult
  | .noEvent => .noEvent
  | .event d n => .event d.exchange n

/-- The operation with the two phase wires swapped. -/
def Machine.Op.swapWires : Machine.Op → Machine.Op
  | .observe a b => .observe b a
  | .read => .read
  | .reset => .reset

end Sys2Proof
end

