-- ==== Sys2Proof/Certificates/Slice0/Obligations.lean ====
section
/-! DEFINITION. The statements for the provers. "Word" numbers follow the spec's literals; where a clause rests on one of the
spec's own decisions (92_eei_decisions.md) or on a choice of the model, the docstring names it. -/

open Sys2Proof Sys2Proof.Machine

/-! ## Encodings -/

/-- 30_encoding.md rule R70: phase B is bit 1 and phase A is bit 0 of the code. -/
def Obligations.PinCodeHasPhaseBAbovePhaseA : Prop :=
  ∀ a b : Bool,
    (packCode a b).toNat = 2 * b.toNat + a.toNat ∧ (packCode a b).getLsbD 1 = b ∧ (packCode a b).getLsbD 0 = a

/-- 30_encoding.md rule R71: four slots, the newest in the low bits; the value of a window; the shift. -/
def Obligations.WindowHoldsFourCodesNewestLow : Prop :=
  (∀ c3 c2 c1 c0 : Code,
    slot (windowOf c3 c2 c1 c0) 0 = c0 ∧ slot (windowOf c3 c2 c1 c0) 1 = c1 ∧
    slot (windowOf c3 c2 c1 c0) 2 = c2 ∧ slot (windowOf c3 c2 c1 c0) 3 = c3 ∧
    (windowOf c3 c2 c1 c0).toNat = 64 * c3.toNat + 16 * c2.toNat + 4 * c1.toNat + c0.toNat) ∧
  (∀ (h : Window) (c : Code), shiftIn h c = h.extractLsb' 0 6 ++ c) ∧
  windowOf 0b01 0b00 0b10 0b11 = 0x4B

/-- The decode table of 30_encoding.md section 2 with the masks and matches of spec/opcode_table.json: every one of the 32
words matches exactly one row. The command word is the spec's decision D6 (log entry 7). -/
def Obligations.CommandTableDecodesEveryWord : Prop :=
  ∀ w : Cmd,
    (w &&& 0x10 = 0x10 ∧ decodeCmd w = .reset) ∨
    (w &&& 0x1C = 0x00 ∧ decodeCmd w = .idle) ∨
    (w &&& 0x1C = 0x04 ∧ decodeCmd w = .observe (w.getLsbD 0) (w.getLsbD 1)) ∨
    (w &&& 0x1C = 0x08 ∧ decodeCmd w = .read) ∨
    (w &&& 0x1C = 0x0C ∧ decodeCmd w = .readObserve (w.getLsbD 0) (w.getLsbD 1))

/-- All eleven canonical words of 30_encoding.md section 2, given to the decoder as spec/opcode_table.json numbers them; the operand
order is phase A, phase B, so 0x05 is A high and 0x06 is B high. Decision D6 (log entry 7). -/
def Obligations.CanonicalWordsDecode : Prop :=
  decodeTableWord 8 0x10 = some .reset ∧ decodeTableWord 8 0x00 = some .idle ∧
  decodeTableWord 8 0x04 = some (.observe false false) ∧ decodeTableWord 8 0x05 = some (.observe true false) ∧
  decodeTableWord 8 0x06 = some (.observe false true) ∧ decodeTableWord 8 0x07 = some (.observe true true) ∧
  decodeTableWord 8 0x08 = some .read ∧
  decodeTableWord 8 0x0C = some (.readObserve false false) ∧ decodeTableWord 8 0x0D = some (.readObserve true false) ∧
  decodeTableWord 8 0x0E = some (.readObserve false true) ∧ decodeTableWord 8 0x0F = some (.readObserve true true)

/-- Decoding the canonical word of any instruction, in front of any further bytes, gives it back with the bytes after it;
encoding what a word decodes to clears exactly the bits its row ignores; two words decode alike exactly when the bits their
rows read agree. Decision D6; the byte around the word is the model's choice (log entry 7). -/
def Obligations.DecodeAndEncodeAgree : Prop :=
  (∀ (i : Instr) (rest : List Byte), decodeBytes (encodeByte i :: rest) = .ok (i, rest)) ∧
  (∀ w : Cmd, encode (decodeCmd w) = w &&& careMask w) ∧
  (∀ w v : Cmd, decodeCmd w = decodeCmd v ↔ w &&& careMask w = v &&& careMask v)

/-- A byte with one of bits 7:5 set carries no command word and is refused by name, and so is the end of the bytes. The model's
choice (log entry 7). -/
def Obligations.BytesThatAreNoCommandWordRejected : Prop :=
  (∀ (b : Byte) (rest : List Byte), 32 ≤ b.toNat → decodeBytes (b :: rest) = .error (.notACommandWord b)) ∧
  decodeBytes [] = .error .noByte

/-- The pseudo-operations of 30_encoding.md section 2 (decision D16): what each expands to under this hardware's assignment of
decision D2 (log entry 3), the two examples of OBSC, and that under the opposite assignment CWSTEP and CCWSTEP exchange their
expansions, for any parameters (log entry 18). -/
def Obligations.PseudoOperationsExpand : Prop :=
  (∀ c : Code, obsc c = .observe (c.getLsbD 0) (c.getLsbD 1)) ∧
  obsc 0b01 = .observe true false ∧ obsc 0b10 = .observe false true ∧ rest = .observe true true ∧
  cwStep params = [obsc 0b01, obsc 0b00, obsc 0b10, obsc 0b11] ∧
  ccwStep params = [obsc 0b10, obsc 0b00, obsc 0b01, obsc 0b11] ∧
  (∀ p : Params, cwStep p.exchange = ccwStep p ∧ ccwStep p.exchange = cwStep p)

/-- The response word of 30_encoding.md section 1: all zero for nothing, else valid, tag and count in their fields, with the
spec's five examples. The tag numbers and the word are decisions D5 and D8 (log entry 6). -/
def Obligations.ResponseWordFields : Prop :=
  answerWord none = 0x000 ∧ encodeResult .noEvent = 0x000 ∧
  (∀ (d : Dir) (n : Count),
    rspValid (encodeResult (.event d n)) = true ∧ rspDir (encodeResult (.event d n)) = dirBits d ∧
    rspCount (encodeResult (.event d n)) = n) ∧
  dirBits .none = 0b00 ∧ dirBits .cw = 0b01 ∧ dirBits .ccw = 0b10 ∧
  encodeResult (.event .cw 1) = 0x501 ∧ encodeResult (.event .ccw 1) = 0x601 ∧
  encodeResult (.event .cw 255) = 0x5FF ∧ encodeResult (.event .ccw 255) = 0x6FF ∧ encodeResult (.event .ccw 7) = 0x607

/-! ## The step -/

/-- A step takes the next command word off the port and is exec of what it decodes to; with no command waiting it is IDLE (log
entry 1). -/
def Obligations.StepRunsTheDecodedCommand : Prop :=
  (∀ (s : State) (w : Cmd) (ws : List Cmd), s.cmds = w :: ws → step s = exec (decodeCmd w) { s with cmds := ws }) ∧
  (∀ s : State, s.cmds = [] → step s = exec .idle s)

/-- Presenting a command word through withFetchWord makes the very next step run it (log entry 15). -/
def Obligations.PresentedWordRunsNext : Prop :=
  ∀ (s : State) (nbits w : Nat), w < 32 → 5 ≤ nbits →
    decodeTableWord nbits w = some (decodeCmd (BitVec.ofNat 5 w)) ∧
    step (s.withFetchWord nbits w) = exec (decodeCmd (BitVec.ofNat 5 w)) s

/-- 60_exceptions.md rule R170: every operation, and so every step, is total; nothing faults and nothing is refused. -/
def Obligations.NothingFaultsOrIsRefused : Prop :=
  (∀ (i : Instr) (s : State), ∃ t, exec i s = .next t) ∧ (∀ s : State, ∃ t, step s = .next t)

/-- Each command is a fixed list of operation-level operations and adds no behaviour of its own (00_scope.md section 2 and the
table of 30_encoding.md section 2, decisions D1, D6, D7; log entries 7, 8). -/
def Obligations.CommandIsItsOperations : Prop :=
  ∀ (i : Instr) (s : State), ∃ t, exec i s = .next t ∧
    t.block = (runOps params (opsOf i) s.block).1 ∧
    t.observed = s.observed ++ (runOps params (opsOf i) s.block).2

/-! ## OBSERVE and the decoder -/

/-- 40_decoder_fsm.md rule R100, in integer arithmetic: the code is compared with the newest slot; otherwise the window becomes
(4 * HW + code) mod 256 and the step it completes, if any, is recorded. -/
def Obligations.ObserveFollowsItsSteps : Prop :=
  ∀ (a b : Bool) (s : State), ∃ t, exec (.observe a b) s = .next t ∧
    t.cmds = s.cmds ∧ t.answers = s.answers ++ [none] ∧
    (2 * b.toNat + a.toNat = s.block.hw.toNat % 4 → t.block = s.block) ∧
    (2 * b.toNat + a.toNat ≠ s.block.hw.toNat % 4 →
      t.block.hw.toNat = (4 * s.block.hw.toNat + (2 * b.toNat + a.toNat)) % 256 ∧
      (t.block.hw = params.refCcw → t.block.ev = recordStep .ccw s.block.ev) ∧
      (t.block.hw ≠ params.refCcw → t.block.hw = params.refCw → t.block.ev = recordStep .cw s.block.ev) ∧
      (t.block.hw ≠ params.refCcw → t.block.hw ≠ params.refCw → t.block.ev = s.block.ev))

/-- 40_decoder_fsm.md rule R101: a sample equal to the newest slot changes nothing; any number of equal samples acts as one; the
block depends on the deduplicated samples only. -/
def Obligations.RepeatedSamplesChangeNothing : Prop :=
  (∀ (a b : Bool) (s : State), packCode a b = slot s.block.hw 0 →
    exec (.observe a b) s = .next { s with answers := s.answers ++ [none] }) ∧
  (∀ (p : Params) (a b : Bool) (n : Nat) (k : Block),
    runOps p (List.replicate (n + 1) (.observe a b)) k = runOps p [.observe a b] k) ∧
  (∀ (p : Params) (cs : List Code) (k : Block),
    runOps p (cs.map Op.observeCode) k = runOps p ((dedupAfter (slot k.hw 0) cs).map Op.observeCode) k)

/-- 40_decoder_fsm.md rule R102: the shift as slices, as an OR, as a sum and as integer arithmetic; after four shifts nothing of
the earlier window is left; the comparisons are equality tests, on the code and on the whole shifted window. -/
def Obligations.ShiftIsFourTimesPlusCode : Prop :=
  (∀ (h : Window) (c : Code),
    (shiftIn h c).extractLsb' 2 6 = h.extractLsb' 0 6 ∧ (shiftIn h c).extractLsb' 0 2 = c ∧
    shiftIn h c = (h <<< 2 ||| c.setWidth 8) ∧ shiftIn h c = (h <<< 2 + c.setWidth 8) ∧
    (shiftIn h c).toNat = (4 * h.toNat + c.toNat) % 256) ∧
  (∀ (h : Window) (c3 c2 c1 c0 : Code),
    shiftIn (shiftIn (shiftIn (shiftIn h c3) c2) c1) c0 = windowOf c3 c2 c1 c0) ∧
  (∀ (p : Params) (h : Window) (c : Code),
    mealyOut p h c ≠ .none ↔ c ≠ slot h 0 ∧ (shiftIn h c = p.refCcw ∨ shiftIn h c = p.refCw))

/-- An OBSERVE records nothing, or it shifted and records one step in one direction; with two different references the order of
the comparisons cannot be observed (40_decoder_fsm.md section 1). -/
def Obligations.ObserveRecordsAtMostOneStep : Prop :=
  (∀ (p : Params) (a b : Bool) (k : Block),
    (observe p a b k).ev = k.ev ∨
    (packCode a b ≠ slot k.hw 0 ∧ (observe p a b k).hw = shiftIn k.hw (packCode a b) ∧
      ((observe p a b k).ev = recordStep .cw k.ev ∨ (observe p a b k).ev = recordStep .ccw k.ev))) ∧
  (∀ (p : Params) (w : Window), p.refCw ≠ p.refCcw →
    classify p w = if w = p.refCw then .cw else if w = p.refCcw then .ccw else .none)

/-- IDLE leaves the block and the waiting commands and answers nothing, and any number of steps on words of IDLE leaves the
block. The command is the spec's decision D6 (log entry 7). -/
def Obligations.IdleHoldsTheBlock : Prop :=
  (∀ s : State, exec .idle s = .next { s with answers := s.answers ++ [none] }) ∧
  (∀ (n : Nat) (s : State), (∀ w ∈ s.cmds, w &&& 0x1C = 0x00) →
    ∃ t, Host.Core.run core n s = .next t ∧ t.block = s.block)

/-- CLASSIFY accepts exactly two of the 256 windows. Which of them is which direction is decision D2 (log entry 3). -/
def Obligations.ClassifyAcceptsTwoWindows : Prop :=
  ∀ w : Window,
    (classify params w = .ccw ↔ w = 0x87) ∧ (classify params w = .cw ↔ w = 0x4B) ∧
    (classify params w = .none ↔ w ≠ 0x87 ∧ w ≠ 0x4B)

/-- What a match certifies (41_gray_code_validator.md section 2), for either assignment of decision D2: the four codes are one
of the two canonical paths; so the newest is rest, each transition inside the window changes exactly one bit, and all four
codes occur. -/
def Obligations.MatchCertifiesCanonicalPath : Prop :=
  ∀ (p : Params) (w : Window), p.refsWellFormed = true →
    (classify p w ≠ .none ↔
      (slot w 3 = 0b01 ∧ slot w 2 = 0b00 ∧ slot w 1 = 0b10 ∧ slot w 0 = 0b11) ∨
      (slot w 3 = 0b10 ∧ slot w 2 = 0b00 ∧ slot w 1 = 0b01 ∧ slot w 0 = 0b11)) ∧
    (classify p w ≠ .none →
      slot w 0 = restCode ∧
      (∀ k ∈ [0, 1, 2], slot w k ^^^ slot w (k + 1) = 0b01 ∨ slot w k ^^^ slot w (k + 1) = 0b10) ∧
      ∀ c : Code, c ∈ [slot w 0, slot w 1, slot w 2, slot w 3])

/-- How the 256 windows divide (41_gray_code_validator.md section 2): 2 accepted; 30 further ones of which each neighbouring pair
of slots differs in exactly one bit; 76 with all neighbours different and some pair differing in both bits; 148 with two equal
neighbours, of which 13 are reachable. -/
def Obligations.WindowsDivideIntoFourClasses : Prop :=
  (allWindows.filter (fun w => classify params w != .none)).length = 2 ∧
  (allWindows.filter (fun w => grayValid w && classify params w == .none)).length = 30 ∧
  (allWindows.filter (fun w => neighboursDiffer w && !grayValid w)).length = 76 ∧
  (allWindows.filter (fun w => !neighboursDiffer w)).length = 148 ∧
  (allWindows.filter (fun w => !neighboursDiffer w && windowReachable w)).length = 13 ∧
  (∀ w : Window, classify params w ≠ .none → grayValid w = true) ∧
  (∀ w : Window, grayValid w = true → neighboursDiffer w = true)

/-- A step is recorded only by a sample of the rest code: an OBSERVE of any other code leaves the cell as it was
(41_gray_code_validator.md section 2), for either assignment of decision D2. -/
def Obligations.StepsAreRecordedOnlyAtRest : Prop :=
  (∀ (p : Params) (h : Window) (c : Code), p.refsWellFormed = true → mealyOut p h c ≠ .none → c = restCode) ∧
  (∀ (a b : Bool) (s : State), (a && b) = false →
    ∃ t, exec (.observe a b) s = .next t ∧ t.block.ev = s.block.ev)

/-- The exact inputs on which the decoder puts out a step (40_decoder_fsm.md section 2): the three newest slots decide, the
oldest plays no part. Directions by decision D2 (log entry 3). -/
def Obligations.DecoderOutputsExactly : Prop :=
  ∀ h : Window,
    (mealyOut params h 0b11 = .cw ↔ h.extractLsb' 0 6 = 0b010010) ∧
    (mealyOut params h 0b11 = .ccw ↔ h.extractLsb' 0 6 = 0b100001) ∧
    (∀ c : Code, c ≠ 0b11 → mealyOut params h c = .none)

/-- Between two samples that each record a step at least three samples shift and record nothing
(41_gray_code_validator.md section 2), from any window and for either assignment of decision D2. -/
def Obligations.StepsAreFourShiftsApart : Prop :=
  ∀ (p : Params) (h : Window) (c : Code) (cs : List Code) (c' : Code), p.refsWellFormed = true →
    mealyOut p h c ≠ .none → mealyOut p (windowAfter (mealyNext h c) cs) c' ≠ .none →
    3 ≤ quietShifts p (mealyNext h c) cs

/-- The window and the recorded steps in terms of the deduplicated samples since reset, preceded by the rest code
(40_decoder_fsm.md section 2). The reset window is decision D3 and the directions decision D2 (log entries 3, 4). -/
def Obligations.WindowIsLastFourDedupedCodes : Prop :=
  (∀ cs : List Code, windowAfter 0xFF cs = lastFourWindow ([0b11, 0b11, 0b11] ++ 0b11 :: dedupAfter 0b11 cs)) ∧
  (∀ (cs : List Code) (c : Code),
    (mealyOut params (windowAfter 0xFF cs) c = .cw ↔
      0b11 :: dedupAfter 0b11 (cs ++ [c]) ≠ 0b11 :: dedupAfter 0b11 cs ∧
      [0b01, 0b00, 0b10, 0b11] <:+ 0b11 :: dedupAfter 0b11 (cs ++ [c])) ∧
    (mealyOut params (windowAfter 0xFF cs) c = .ccw ↔
      0b11 :: dedupAfter 0b11 (cs ++ [c]) ≠ 0b11 :: dedupAfter 0b11 cs ∧
      [0b10, 0b00, 0b01, 0b11] <:+ 0b11 :: dedupAfter 0b11 (cs ++ [c])) ∧
    (mealyOut params (windowAfter 0xFF cs) c ≠ .none → 4 ≤ (dedupAfter 0b11 (cs ++ [c])).length))

/-- Exactly 121 windows are reached from 0xFF, those the spec describes (10_state.md section 6). The reset window is decision D3
(log entry 4). -/
def Obligations.ReachableWindowsAre121 : Prop :=
  (∀ w : Window, windowReachable w = true ↔ ∃ cs : List Code, windowAfter 0xFF cs = w) ∧
  (allWindows.filter windowReachable).length = 121

/-- The two admitted reset windows cannot be told apart, by the steps recorded at each sample or by any run's responses, while
0x01, 0x12 and 0xD2 make a step appear after fewer than four samples (10_state.md section 6, decision D3; log entry 4). -/
def Obligations.ResetWindowChoiceUnobservable : Prop :=
  (∀ cs : List Code, outputs params 0xFF cs = outputs params 0x00 cs) ∧
  (∀ ops : List Op,
    (runOps { params with hwReset := 0xFF } ops (Block.ofParams { params with hwReset := 0xFF })).2 =
      (runOps { params with hwReset := 0x00 } ops (Block.ofParams { params with hwReset := 0x00 })).2) ∧
  (∀ h ∈ ([0x01, 0x12, 0xD2] : List Window), ∃ cs : List Code, cs.length < 4 ∧ ∃ d ∈ outputs params h cs, d ≠ .none)

/-- Why: two windows that differ in their fillers only, such as 0xFF and 0x00, put out the same on every sample and differ in
their fillers only after it; so with equal cells every operation, RESET to the one and to the other window too, answers the same
and keeps the relation (10_state.md section 6, for either assignment of decision D2, the two windows by decision D3; log entry
4). -/
def Obligations.EveryOperationKeepsWindowsSameButFiller : Prop :=
  ∀ p : Params, p.refsWellFormed = true →
    (∀ (h h' : Window) (c : Code), sameButFiller h h' = true →
      mealyOut p h c = mealyOut p h' c ∧ sameButFiller (mealyNext h c) (mealyNext h' c) = true) ∧
    (∀ (o : Op) (k j : Block), sameButFiller k.hw j.hw = true → k.ev = j.ev →
      (runOp { p with hwReset := 0xFF } o k).2 = (runOp { p with hwReset := 0x00 } o j).2 ∧
      (runOp { p with hwReset := 0xFF } o k).1.ev = (runOp { p with hwReset := 0x00 } o j).1.ev ∧
      sameButFiller (runOp { p with hwReset := 0xFF } o k).1.hw (runOp { p with hwReset := 0x00 } o j).1.hw = true)

/-- From any window whose newest code is rest, a canonical path ends in its reference sequence and records exactly one step,
whatever the oldest slots and the cell hold (41_gray_code_validator.md section 2), for either assignment of decision D2. -/
def Obligations.CleanPathRecordsOneStep : Prop :=
  ∀ (p : Params) (k : Block), p.refsWellFormed = true → slot k.hw 0 = restCode →
    runOps p ((cwStep p).flatMap opsOf) k = ({ hw := p.refCw, ev := recordStep .cw k.ev }, []) ∧
    runOps p ((ccwStep p).flatMap opsOf) k = ({ hw := p.refCcw, ev := recordStep .ccw k.ev }, [])

/-- A bounce back to rest after one or two intermediate codes, the second one left directly or by the way it was reached, leaves
the cell as it was (95_test_vectors.md section 1, property S6), for either assignment of decision D2. -/
def Obligations.BounceRecordsNothing : Prop :=
  ∀ (p : Params) (k : Block) (x y : Code), p.refsWellFormed = true → slot k.hw 0 = restCode →
    (runOps p ([x, restCode].map Op.observeCode) k).1.ev = k.ev ∧
    (runOps p ([x, y, restCode].map Op.observeCode) k).1.ev = k.ev ∧
    (runOps p ([x, y, x, restCode].map Op.observeCode) k).1.ev = k.ev

/-! ## The event buffer -/

/-- 42_event_buffer.md rule R140: another tag overwrites; the same tag counts up and clamps at 255. -/
def Obligations.RecordStepCountsOrOverwrites : Prop :=
  ∀ (d : Dir) (e : StepEvent),
    (e.dir ≠ d → recordStep d e = { dir := d, count := 1 }) ∧
    (e.dir = d → (recordStep d e).dir = d ∧ (recordStep d e).count.toNat = min (e.count.toNat + 1) 255)

/-- N clean steps of one direction and then a READ report min(N, 255), from any state with nothing pending and the newest code
at rest (42_event_buffer.md section 1, 95_test_vectors.md property S3), for either assignment of decision D2. -/
def Obligations.CleanStepsSaturateAt255 : Prop :=
  ∀ (p : Params) (n : Nat) (k : Block), p.refsWellFormed = true → slot k.hw 0 = restCode → k.ev.count = 0 →
    (runOps p ((List.replicate (n + 1) (cwStep p)).flatten.flatMap opsOf ++ [.read]) k).2 =
      [.event .cw (BitVec.ofNat 8 (min (n + 1) 255))] ∧
    (runOps p ((List.replicate (n + 1) (ccwStep p)).flatten.flatMap opsOf ++ [.read]) k).2 =
      [.event .ccw (BitVec.ofNat 8 (min (n + 1) 255))]

/-- However many clean steps of one direction come first, one of the other and then two READs yield exactly one event of count 1
(42_event_buffer.md section 1, 95_test_vectors.md property S4), for either assignment of decision D2. -/
def Obligations.ReversalDiscardsTheEarlierRun : Prop :=
  ∀ (p : Params) (n : Nat) (k : Block), p.refsWellFormed = true → slot k.hw 0 = restCode →
    (runOps p ((List.replicate (n + 1) (cwStep p) ++ [ccwStep p]).flatten.flatMap opsOf ++ [.read, .read]) k).2 =
      [.event .ccw 1, .noEvent] ∧
    (runOps p ((List.replicate (n + 1) (ccwStep p) ++ [cwStep p]).flatten.flatMap opsOf ++ [.read, .read]) k).2 =
      [.event .cw 1, .noEvent]

/-- The tag of an empty cell has no effect on the next recorded step, nor on any response of any later run
(42_event_buffer.md rule R143). -/
def Obligations.EmptyCellTagUnobservable : Prop :=
  (∀ (d : Dir) (e : StepEvent), e.count = 0 → recordStep d e = { dir := d, count := 1 }) ∧
  (∀ (p : Params) (ops : List Op) (k j : Block), k.hw = j.hw → k.ev.count = 0 → j.ev.count = 0 →
    (runOps p ops k).2 = (runOps p ops j).2)

/-- 42_event_buffer.md rule R144: READ answers on the count alone, clears it, and leaves the tag and the window. -/
def Obligations.ReadTakesAndClears : Prop :=
  ∀ s : State, ∃ t, exec .read s = .next t ∧
    t.cmds = s.cmds ∧ t.block.hw = s.block.hw ∧ t.block.ev.dir = s.block.ev.dir ∧ t.block.ev.count = 0 ∧
    t.answers = s.answers ++
      [some (if s.block.ev.count = 0 then .noEvent else .event s.block.ev.dir s.block.ev.count)]

/-- 42_event_buffer.md rule R145: after a READ, and as long as no further step is recorded, every READ answers NoEvent. -/
def Obligations.EachRunIsDeliveredOnce : Prop :=
  ∀ (p : Params) (ops : List Op) (k : Block), stepsRecorded p k.hw ops = [] →
    (runOps p (.read :: ops) k).2.head? = some (readResult k) ∧
    ∀ r ∈ (runOps p (.read :: ops) k).2.tail, r = .noEvent

/-- READ_OBSERVE is READ and then OBSERVE in one step with READ's response, and a step its OBSERVE half records starts a run of 1
(42_event_buffer.md section 3). The order is the spec's decision D7 (log entry 8). -/
def Obligations.ReadObserveIsReadThenObserve : Prop :=
  ∀ (a b : Bool) (s : State), ∃ t u v,
    exec (.readObserve a b) s = .next t ∧ exec .read s = .next u ∧ exec (.observe a b) u = .next v ∧
    t.block = v.block ∧ t.answers = u.answers ∧ t.cmds = s.cmds ∧
    (mealyOut params s.block.hw (packCode a b) ≠ .none →
      t.block.ev = { dir := mealyOut params s.block.hw (packCode a b), count := 1 })

/-- 10_state.md rule R24: empty and pending are decided by the count, whatever the tag, and so is READ's answer. -/
def Obligations.EmptinessIsTheCountAlone : Prop :=
  (∀ e : StepEvent, (isEmpty e = true ↔ e.count = 0) ∧ (isPending e = true ↔ e.count ≠ 0)) ∧
  (∀ (e : StepEvent) (d : Dir),
    isEmpty { e with dir := d } = isEmpty e ∧ isPending { e with dir := d } = isPending e) ∧
  (∀ k : Block, readResult k = .noEvent ↔ k.ev.count = 0)

/-- How one command can change the count (10_state.md section 3): it falls only to 0 by READ or RESET or to 1 by a reversal, and
it rises by at most one at a time. That READ_OBSERVE leaves 0 or 1 rests on its READ coming first, decision D7 (log entry 8). -/
def Obligations.CountChangesByTheRules : Prop :=
  (∀ s t : State, exec .reset s = .next t → t.block.ev.count = 0) ∧
  (∀ s t : State, exec .idle s = .next t → t.block.ev = s.block.ev) ∧
  (∀ s t : State, exec .read s = .next t → t.block.ev.count = 0) ∧
  (∀ (a b : Bool) (s t : State), exec (.observe a b) s = .next t →
    t.block.ev = s.block.ev ∨
    (t.block.ev.dir = s.block.ev.dir ∧ t.block.ev.count.toNat = s.block.ev.count.toNat + 1) ∨
    (t.block.ev.dir ≠ s.block.ev.dir ∧ t.block.ev.count = 1)) ∧
  (∀ (a b : Bool) (s t : State), exec (.readObserve a b) s = .next t →
    (t.block.ev.dir = s.block.ev.dir ∧ t.block.ev.count = 0) ∨ t.block.ev.count = 1)

/-- For every list of operations, from any block with nothing pending, the READ responses are those read off the steps recorded
since the last READ: the last direction and the length of its unbroken run, clamped at 255 (42_event_buffer.md rule R147). -/
def Obligations.ReadReportsTheLastUnbrokenRun : Prop :=
  ∀ (p : Params) (ops : List Op) (k : Block), k.ev.count = 0 →
    (runOps p ops k).2 = expectedResults p { hw := k.hw, since := [] } ops

/-- The same at the port, for every list of command words waiting there: the machine takes them all, gives one response word for
each, and its READ responses are those of rule R147 (the port by decisions D6, D8; log entries 1, 2, 7). In READ_OBSERVE the
READ comes before the OBSERVE, decision D7 (log entry 8). -/
def Obligations.PortRunReportsTheLastUnbrokenRun : Prop :=
  ∀ s : State, s.block.ev.count = 0 → ∃ t, Host.Core.run core s.cmds.length s = .next t ∧
    t.cmds = [] ∧ t.responses.length = s.responses.length + s.cmds.length ∧
    t.observed = s.observed ++
      expectedResults params { hw := s.block.hw, since := [] } (s.cmds.flatMap (fun w => opsOf (decodeCmd w)))

/-- Why: from every state that follows a history of rule R147, a step answers READ as the history says and leads to a state that
follows the history after the command's operations; so does every single operation, for any parameters. In READ_OBSERVE the READ
comes before the OBSERVE, decision D7; the command word is decision D6; a step with no command waiting is IDLE (log entries 1, 7,
8). -/
def Obligations.EveryStepFollowsTheHistory : Prop :=
  (∀ (s t : State) (g : History), s.block.Follows g → step s = .next t →
    t.block.Follows ((opsOf (decodeCmd s.nextCmd)).foldl (History.after params) g) ∧
    t.observed = s.observed ++ (if Op.read ∈ opsOf (decodeCmd s.nextCmd) then [expectedResult g.since] else [])) ∧
  (∀ (p : Params) (o : Op) (k : Block) (g : History), k.Follows g → (runOp p o k).1.Follows (g.after p o))

/-- As long as every recorded step goes one way, the pending run goes that way too, and the total stays within 255, no step is
lost or counted twice, however READs are spread among the samples (95_test_vectors.md section 2.6, vector V31). -/
def Obligations.NoStepLostWithoutReversalOrSaturation : Prop :=
  ∀ (p : Params) (ops : List Op) (k : Block) (d : Dir),
    (∀ o ∈ ops, o ≠ .reset) → (∀ x ∈ stepsRecorded p k.hw ops, x = d) →
    (k.ev.count ≠ 0 → k.ev.dir = d) → k.ev.count.toNat + (stepsRecorded p k.hw ops).length ≤ 255 →
    ((runOps p ops k).2.map reported).sum + (runOps p ops k).1.ev.count.toNat =
      k.ev.count.toNat + (stepsRecorded p k.hw ops).length

/-- However the consumer's READs fall among the producer's samples, the window ends as from the samples alone
(20_memory.md section 3, 42_event_buffer.md section 2). -/
def Obligations.ReadsNeverDisturbDecoding : Prop :=
  ∀ (p : Params) (ps cs ms : List Op) (k : Block), Interleaves ps cs ms → (∀ o ∈ cs, o = .read) →
    (runOps p ms k).1.hw = (runOps p ps k).1.hw

/-! ## RESET -/

/-- RESET writes all of the block and answers nothing, whatever was pending, and every word with CMD[4] set is RESET. The values
of the window and the tag are decisions D3 and D4, the command decision D9 (log entries 4, 5, 9). -/
def Obligations.ResetWritesTheWholeBlock : Prop :=
  (∀ s : State, exec .reset s =
    .next { s with block := { hw := 0xFF, ev := { dir := .none, count := 0 } }, answers := s.answers ++ [none] }) ∧
  (∀ w : Cmd, w.getLsbD 4 = true → decodeCmd w = .reset)

/-- The machine after reset: the block RESET leaves (decisions D3, D4; log entries 4, 5), no command waiting and no answer given
(log entries 1, 2). -/
def Obligations.MachineStartsAsResetLeavesIt : Prop :=
  State.reset.block = { hw := 0xFF, ev := { dir := .none, count := 0 } } ∧ State.reset.cmds = [] ∧
  State.reset.answers = [] ∧ (∀ k : Block, resetBlock params k = State.reset.block)

/-- 10_state.md rule R33: the cell is empty after reset, and every READ before the first recorded step answers NoEvent. -/
def Obligations.CellIsEmptyAfterReset : Prop :=
  (∀ p : Params, (Block.ofParams p).ev.count = 0) ∧ State.reset.block.ev.count = 0 ∧
  (∀ (p : Params) (ops : List Op), stepsRecorded p p.hwReset ops = [] →
    ∀ r ∈ (runOps p ops (Block.ofParams p)).2, r = .noEvent)

/-! ## Frames and invariants -/

/-- The window changes only in RESET, OBSERVE and READ_OBSERVE, in the latter two only by the shift and only for a code that
differs from the newest slot, after which the two newest slots differ (10_state.md section 2). -/
def Obligations.WindowWrittenOnlyByChangedSample : Prop :=
  ∀ (i : Instr) (s t : State), exec i s = .next t → t.block.hw ≠ s.block.hw →
    i = .reset ∨
    ∃ a b, (i = .observe a b ∨ i = .readObserve a b) ∧ packCode a b ≠ slot s.block.hw 0 ∧
      t.block.hw = shiftIn s.block.hw (packCode a b) ∧ slot t.block.hw 0 ≠ slot t.block.hw 1

/-- The cell changes only in RESET, in a READ of a pending event, which clears the count and nothing else, and in a sample that
records a step (10_state.md section 3); READ_OBSERVE may do both, the READ first, so that its step is recorded on the cleared
cell: decision D7 (log entry 8). -/
def Obligations.CellWrittenOnlyByItsThreeWriters : Prop :=
  ∀ (i : Instr) (s t : State), exec i s = .next t → t.block.ev ≠ s.block.ev →
    i = .reset ∨
    (i = .read ∧ s.block.ev.count ≠ 0 ∧ t.block.ev = { s.block.ev with count := 0 }) ∨
    (∃ a b, i = .observe a b ∧ mealyOut params s.block.hw (packCode a b) ≠ .none ∧
      t.block.ev = recordStep (mealyOut params s.block.hw (packCode a b)) s.block.ev) ∨
    (∃ a b, i = .readObserve a b ∧
      (s.block.ev.count ≠ 0 ∨ mealyOut params s.block.hw (packCode a b) ≠ .none) ∧
      t.block.ev =
        if mealyOut params s.block.hw (packCode a b) = .none then { s.block.ev with count := 0 }
        else recordStep (mealyOut params s.block.hw (packCode a b)) { s.block.ev with count := 0 })

/-- No instruction touches the waiting commands; each puts exactly one answer after the earlier ones, a READ's result exactly
when it holds a READ (log entries 1, 2). That READ_OBSERVE answers the READ of the block as it was before its sample rests on the
READ coming first, decision D7 (log entry 8). -/
def Obligations.EveryInstructionAnswersOnce : Prop :=
  ∀ (i : Instr) (s : State), ∃ t, exec i s = .next t ∧ t.cmds = s.cmds ∧
    t.answers = s.answers ++ [if Op.read ∈ opsOf i then some (readResult s.block) else none]

/-- Every step keeps the invariant: a window of rule R37, a cell of rule R27, and only the 511 response words of rule R74
(decisions D3, D8; log entries 4, 6). -/
def Obligations.EveryStepKeepsTheInvariant : Prop :=
  ∀ s t : State, s.Inv → step s = .next t → t.Inv

/-- The invariant holds at reset. The reset window 0xFF is decision D3 and the tag DIR_NONE decision D4 (log entries 4, 5); the
empty list of answers is the model's choice (log entry 2). -/
def Obligations.ResetMeetsTheInvariant : Prop := State.reset.Inv

/-! ## The two directions -/

/-- Exchanging the two references together with the two tags exchanges the tags in every state and response and changes nothing
else (30_encoding.md section 1, decision D2). -/
def Obligations.ExchangingReferencesExchangesTags : Prop :=
  ∀ (p : Params) (ops : List Op) (k : Block), p.refCw ≠ p.refCcw →
    runOps p.exchange ops k.exchange =
      ((runOps p ops k).1.exchange, (runOps p ops k).2.map ReadResult.exchange)

/-- Swapping the two phase wires exchanges the directions in every response of every run from reset (70_reset_and_hazards.md
section 2), for either assignment of decision D2. -/
def Obligations.SwappingWiresExchangesDirections : Prop :=
  ∀ (p : Params) (ops : List Op), p.wellFormed = true →
    (runOps p (ops.map Op.swapWires) (Block.ofParams p)).2 =
      (runOps p ops (Block.ofParams p)).2.map ReadResult.exchange

/-! ## The split READ -/

/-- READ_split runs to its end from any state with no READ in progress: it answers what READ answers, leaves what READ leaves,
and restores PE (20_memory.md section 4). The moves it is cut into are the model's choice (log entry 12). -/
def Obligations.SplitReadRunsToItsEnd : Prop :=
  ∀ (p : Params) (s : SplitState), s.phase = .outside →
    (s.block.ev.count = 0 → splitRun p [.csEnter, .inspect, .csExit] s =
      some { s with answers := s.answers ++ [.noEvent] }) ∧
    (s.block.ev.count ≠ 0 → splitRun p [.csEnter, .inspect, .clear, .csExit] s =
      some { s with
        block := { s.block with ev := { s.block.ev with count := 0 } }
        answers := s.answers ++ [.event s.block.ev.dir s.block.ev.count] })

/-- Every interleaving of READ_splits with producers is the indivisible READ at each CS_ENTER and OBSERVE at each sample: the
same block and the same responses (20_memory.md section 4; PE beside the state and the cut into moves are the model's choices,
log entries 11, 12). -/
def Obligations.SplitReadIsReadAtItsEntry : Prop :=
  ∀ (p : Params) (ms : List SplitMove) (s t : SplitState), s.phase = .outside → splitRun p ms s = some t →
    t.phase = .outside →
    t.block = (runOps p (ms.flatMap SplitMove.ops) s.block).1 ∧
    t.answers = s.answers ++ (runOps p (ms.flatMap SplitMove.ops) s.block).2

/-- Why: count a READ in progress as complete since its CS_ENTER; then every move, from every state in which the producer is shut
out of a READ in progress, does to the block and the responses what its operations do, READ for CS_ENTER, OBSERVE for a sample,
nothing for the rest, and leaves such a state (20_memory.md section 4). The moves, and that the host sets PE only outside a READ,
are the model's choice (log entries 11, 12). -/
def Obligations.EverySplitMoveIsItsOperations : Prop :=
  ∀ (p : Params) (m : SplitMove) (s t : SplitState), s.Inv → splitStep p m s = some t →
    t.Inv ∧ t.asIndivisible.1 = (runOps p m.ops s.asIndivisible.1).1 ∧
    t.asIndivisible.2 = s.asIndivisible.2 ++ (runOps p m.ops s.asIndivisible.1).2

/-- READ_splits leave PE as they found it, set or clear: only the host's own move outside a READ changes it
(60_exceptions.md section 4; PE beside the state and the cut into moves are the model's choices, log entries 11, 12). -/
def Obligations.SplitReadRestoresProducerEnable : Prop :=
  ∀ (p : Params) (ms : List SplitMove) (s t : SplitState), s.phase = .outside → splitRun p ms s = some t →
    t.phase = .outside → (∀ v, .hostSet v ∉ ms) → t.pe = s.pe

/-- Every move keeps the producer shut out while a READ is in progress, and then an asynchronous producer has no move
(60_exceptions.md section 2; log entry 11). That every move keeps it rests on the host setting PE only outside a READ, the model's
choice (log entry 12). -/
def Obligations.ProducerShutOutDuringSplitRead : Prop :=
  (∀ (p : Params) (m : SplitMove) (s t : SplitState), s.Inv → splitStep p m s = some t → t.Inv) ∧
  (∀ (p : Params) (a b : Bool) (s : SplitState), s.Inv → s.phase ≠ .outside →
    splitStep p (.sample a b) s = none ∧ splitStep p (.poll a b) s = none)

/-- After CS_EXIT the deferred OBSERVE may come exactly if PE was set at the entry, with any levels, and need not come: the exit
itself samples nothing (60_exceptions.md section 2, decision D11; log entry 12). -/
def Obligations.DeferredSampleMayFollowTheExit : Prop :=
  ∀ (p : Params) (a b saved : Bool) (r : ReadResult) (s : SplitState), s.phase = .leaving saved r →
    ∃ t, splitStep p .csExit s = some t ∧ t.block = s.block ∧ t.answers = s.answers ++ [r] ∧
      splitStep p (.sample a b) t = (if saved then some { t with block := observe p a b t.block } else none)
end

