-- ==== Sys2Proof/Laws/State.lean ====
section
/-! SUPPORT. What each field of the state is after each update, so that no proof unfolds an update. -/

namespace Sys2Proof.Machine

@[simp] theorem finish_block (s : State) (k : Block) (r : Option ReadResult) : (s.finish k r).block = k := rfl
@[simp] theorem finish_cmds (s : State) (k : Block) (r : Option ReadResult) : (s.finish k r).cmds = s.cmds := rfl
@[simp] theorem finish_answers (s : State) (k : Block) (r : Option ReadResult) :
    (s.finish k r).answers = s.answers ++ [r] := rfl

@[simp] theorem dropCmd_block (s : State) : s.dropCmd.block = s.block := rfl
@[simp] theorem dropCmd_cmds (s : State) : s.dropCmd.cmds = s.cmds.tail := rfl
@[simp] theorem dropCmd_answers (s : State) : s.dropCmd.answers = s.answers := rfl

@[simp] theorem present_block (w : Cmd) (s : State) : (s.present w).block = s.block := rfl
@[simp] theorem present_cmds (w : Cmd) (s : State) : (s.present w).cmds = w :: s.cmds := rfl
@[simp] theorem present_answers (w : Cmd) (s : State) : (s.present w).answers = s.answers := rfl
@[simp] theorem present_nextCmd (w : Cmd) (s : State) : (s.present w).nextCmd = w := rfl
@[simp] theorem present_dropCmd (w : Cmd) (s : State) : (s.present w).dropCmd = s := rfl

@[simp] theorem ofParams_hw (p : Params) : (Block.ofParams p).hw = p.hwReset := rfl
@[simp] theorem ofParams_ev (p : Params) : (Block.ofParams p).ev = { dir := .none, count := 0 } := rfl

@[simp] theorem exchange_refCw (p : Params) : p.exchange.refCw = p.refCcw := rfl
@[simp] theorem exchange_refCcw (p : Params) : p.exchange.refCcw = p.refCw := rfl
@[simp] theorem exchange_hwReset (p : Params) : p.exchange.hwReset = p.hwReset := rfl

/-- The response words of a finished step: one more, at the end. -/
theorem finish_responses (s : State) (k : Block) (r : Option ReadResult) :
    (s.finish k r).responses = s.responses ++ [answerWord r] := by
  simp [State.responses]

/-- The READ responses of a finished step: one more if the step held a READ. -/
theorem finish_observed (s : State) (k : Block) (r : Option ReadResult) :
    (s.finish k r).observed = s.observed ++ r.toList := by
  cases r <;> simp [State.observed]

end Sys2Proof.Machine
end

