-- ==== Sys2Proof/Laws/Ops.lean ====
section
/-! SUPPORT. What each shared operation can do, said once, for proofs to cite instead of unfolding it. -/

namespace Sys2Proof.Machine

/-! ## Derived predicates -/

theorem isEmpty_iff_count (e : StepEvent) : isEmpty e = true ↔ e.count = 0 := by simp [isEmpty]
theorem isPending_iff_count (e : StepEvent) : isPending e = true ↔ e.count ≠ 0 := by simp [isPending]
theorem isSaturated_iff_count (e : StepEvent) : isSaturated e = true ↔ e.count = 255 := by simp [isSaturated, countMax]

/-! ## Codes and slots -/

theorem codeA_packCode (a b : Bool) : codeA (packCode a b) = a := by cases a <;> cases b <;> decide
theorem codeB_packCode (a b : Bool) : codeB (packCode a b) = b := by cases a <;> cases b <;> decide
theorem packCode_code (c : Code) : packCode (codeA c) (codeB c) = c := by revert c; decide

/-- After a shift slot 0 holds the new code. -/
theorem slot_zero_shiftIn (h : Window) (c : Code) : slot (shiftIn h c) 0 = c := by revert h c; decide
/-- After a shift slot 1 holds the code that was newest before. -/
theorem slot_one_shiftIn (h : Window) (c : Code) : slot (shiftIn h c) 1 = slot h 0 := by revert h c; decide
/-- After a shift slot 2 holds what slot 1 held. -/
theorem slot_two_shiftIn (h : Window) (c : Code) : slot (shiftIn h c) 2 = slot h 1 := by revert h c; decide
/-- After a shift slot 3 holds what slot 2 held. -/
theorem slot_three_shiftIn (h : Window) (c : Code) : slot (shiftIn h c) 3 = slot h 2 := by revert h c; decide

/-- A window is its four slots. -/
theorem windowOf_slots (h : Window) : windowOf (slot h 3) (slot h 2) (slot h 1) (slot h 0) = h := by revert h; decide

/-! ## CLASSIFY, RECORD_STEP, READ -/

/-- CLASSIFY answers one of three ways, each with the comparison that led to it. -/
theorem classify_cases (p : Params) (w : Window) :
    (w = p.refCcw ∧ classify p w = .ccw) ∨ (w ≠ p.refCcw ∧ w = p.refCw ∧ classify p w = .cw) ∨
      (w ≠ p.refCcw ∧ w ≠ p.refCw ∧ classify p w = .none) := by
  by_cases h1 : w = p.refCcw
  · exact .inl ⟨h1, by simp [classify, h1]⟩
  · by_cases h2 : w = p.refCw
    · exact .inr (.inl ⟨h1, h2, by rw [classify, if_neg h1, if_pos h2]⟩)
    · exact .inr (.inr ⟨h1, h2, by rw [classify, if_neg h1, if_neg h2]⟩)

/-- RECORD_STEP overwrites, drops the step, or counts it. -/
theorem recordStep_cases (d : Dir) (e : StepEvent) :
    (e.dir ≠ d ∧ recordStep d e = { dir := d, count := 1 }) ∨
      (e.dir = d ∧ e.count = 255 ∧ recordStep d e = e) ∨
      (e.dir = d ∧ e.count ≠ 255 ∧ recordStep d e = { dir := d, count := e.count + 1 }) := by
  by_cases h : e.dir = d
  · by_cases hs : e.count = 255
    · exact .inr (.inl ⟨h, hs, by rw [recordStep, if_pos h, if_pos ((isSaturated_iff_count e).2 hs)]⟩)
    · refine .inr (.inr ⟨h, hs, ?_⟩)
      rw [recordStep, if_pos h, if_neg (fun hc => hs ((isSaturated_iff_count e).1 hc)), ← h]
  · exact .inl ⟨h, by rw [recordStep, if_neg h]⟩

/-- The recorded step's direction is in the cell afterwards. -/
theorem recordStep_dir (d : Dir) (e : StepEvent) : (recordStep d e).dir = d := by
  obtain ⟨_, h⟩ | ⟨hd, _, h⟩ | ⟨_, _, h⟩ := recordStep_cases d e <;> simp [h]
  exact hd

/-- READ finds the cell empty and leaves the block, or delivers the pair and clears the count. -/
theorem read_cases (k : Block) :
    (k.ev.count = 0 ∧ takeEvent k = k ∧ readResult k = .noEvent) ∨
      (k.ev.count ≠ 0 ∧ takeEvent k = { k with ev := { k.ev with count := 0 } } ∧
        readResult k = .event k.ev.dir k.ev.count) := by
  by_cases h : isEmpty k.ev = true
  · exact .inl ⟨(isEmpty_iff_count _).1 h, by rw [takeEvent, if_pos h], by rw [readResult, if_pos h]⟩
  · exact .inr ⟨fun hc => h ((isEmpty_iff_count _).2 hc), by rw [takeEvent, if_neg h], by rw [readResult, if_neg h]⟩

@[simp] theorem takeEvent_hw (k : Block) : (takeEvent k).hw = k.hw := by
  obtain ⟨_, h, _⟩ | ⟨_, h, _⟩ := read_cases k <;> rw [h]
@[simp] theorem takeEvent_dir (k : Block) : (takeEvent k).ev.dir = k.ev.dir := by
  obtain ⟨_, h, _⟩ | ⟨_, h, _⟩ := read_cases k <;> rw [h]
@[simp] theorem takeEvent_count (k : Block) : (takeEvent k).ev.count = 0 := by
  obtain ⟨h0, h, _⟩ | ⟨_, h, _⟩ := read_cases k <;> rw [h]
  exact h0

/-! ## OBSERVE -/

/-- OBSERVE moves the window as the Mealy machine does. -/
theorem observe_hw (p : Params) (a b : Bool) (k : Block) : (observe p a b k).hw = mealyNext k.hw (packCode a b) := by
  unfold observe mealyNext
  by_cases hc : packCode a b = slot k.hw 0
  · simp [hc]
  · simp only [hc, if_false]
    split <;> rfl

/-- OBSERVE changes the cell by the step the Mealy machine puts out, if it puts one out. -/
theorem observe_ev (p : Params) (a b : Bool) (k : Block) :
    (observe p a b k).ev =
      if mealyOut p k.hw (packCode a b) = .none then k.ev else recordStep (mealyOut p k.hw (packCode a b)) k.ev := by
  unfold observe mealyOut
  by_cases hc : packCode a b = slot k.hw 0
  · simp [hc]
  · simp only [hc, if_false]
    split <;> simp_all

/-! ## exec -/

/-- Everything an instruction can do: each of the five leads to one next state. -/
theorem exec_next_cases {i : Instr} {s t : State} (h : exec i s = .next t) :
    (i = .reset ∧ t = s.finish (Block.ofParams params) none) ∨
      (i = .idle ∧ t = s.finish s.block none) ∨
      (∃ a b, i = .observe a b ∧ t = s.finish (observe params a b s.block) none) ∨
      (i = .read ∧ t = s.finish (takeEvent s.block) (some (readResult s.block))) ∨
      (∃ a b, i = .readObserve a b ∧
        t = s.finish (observe params a b (takeEvent s.block)) (some (readResult s.block))) := by
  cases i with
  | reset => cases h; exact .inl ⟨rfl, rfl⟩
  | idle => cases h; exact .inr (.inl ⟨rfl, rfl⟩)
  | observe a b => cases h; exact .inr (.inr (.inl ⟨a, b, rfl, rfl⟩))
  | read => cases h; exact .inr (.inr (.inr (.inl ⟨rfl, rfl⟩)))
  | readObserve a b => cases h; exact .inr (.inr (.inr (.inr ⟨a, b, rfl, rfl⟩)))

end Sys2Proof.Machine
end

