-- ==== Sys2Proof/Laws/Operations.lean ====
section
/-! SUPPORT. Runs of operations put together, interleavings, everything one move of the split READ can do, what a split
state stands for, and the pseudo-operations as operations. -/

namespace Sys2Proof.Machine

/-- A run of two lists is the run of the second from where the first ends, the responses in order. -/
theorem runOps_append (p : Params) (xs ys : List Op) (k : Block) :
    runOps p (xs ++ ys) k =
      ((runOps p ys (runOps p xs k).1).1, (runOps p xs k).2 ++ (runOps p ys (runOps p xs k).1).2) := by
  induction xs generalizing k with
  | nil => simp [runOps]
  | cons o os ih => simp [runOps, ih]

/-- An interleaving keeps the first agent's order. -/
theorem Interleaves.left_sublist {xs ys zs : List Op} (h : Interleaves xs ys zs) : xs.Sublist zs := by
  induction h with
  | done => exact List.Sublist.slnil
  | left o _ ih => exact ih.cons_cons o
  | right o _ ih => exact ih.cons o

/-- An interleaving keeps the second agent's order. -/
theorem Interleaves.right_sublist {xs ys zs : List Op} (h : Interleaves xs ys zs) : ys.Sublist zs := by
  induction h with
  | done => exact List.Sublist.slnil
  | left o _ ih => exact ih.cons o
  | right o _ ih => exact ih.cons_cons o

/-- Everything one move of the split setting can do. -/
theorem splitStep_cases {p : Params} {m : SplitMove} {s t : SplitState} (h : splitStep p m s = some t) :
    (m = .csEnter ∧ s.phase = .outside ∧ t = { s with pe := false, phase := .entered s.pe }) ∨
      (∃ v, m = .inspect ∧ s.phase = .entered v ∧ isEmpty s.block.ev = true ∧
        t = { s with phase := .leaving v .noEvent }) ∨
      (∃ v, m = .inspect ∧ s.phase = .entered v ∧ isEmpty s.block.ev = false ∧
        t = { s with phase := .copied v s.block.ev.dir s.block.ev.count }) ∨
      (∃ v d n, m = .clear ∧ s.phase = .copied v d n ∧
        t = { s with block := { s.block with ev := { s.block.ev with count := 0 } }, phase := .leaving v (.event d n) }) ∨
      (∃ v r, m = .csExit ∧ s.phase = .leaving v r ∧
        t = { s with pe := v, phase := .outside, answers := s.answers ++ [r] }) ∨
      (∃ a b, m = .sample a b ∧ s.pe = true ∧ t = { s with block := observe p a b s.block }) ∨
      (∃ a b, m = .poll a b ∧ s.phase = .outside ∧ t = { s with block := observe p a b s.block }) ∨
      (∃ v, m = .hostSet v ∧ s.phase = .outside ∧ t = { s with pe := v }) := by
  obtain ⟨k, pe, ph, as⟩ := s
  cases m with
  | inspect =>
    cases ph with
    | entered v =>
      simp only [splitStep] at h
      split at h <;> cases h <;> simp_all
    | _ => cases h
  | sample a b =>
    have h : (if pe then some { block := observe p a b k, pe := pe, phase := ph, answers := as } else none) = some t := by
      cases ph <;> exact h
    split at h <;> cases h
    exact .inr (.inr (.inr (.inr (.inr (.inl ⟨a, b, rfl, ‹_›, rfl⟩)))))
  | poll a b =>
    cases ph <;> cases h
    exact .inr (.inr (.inr (.inr (.inr (.inr (.inl ⟨a, b, rfl, rfl, rfl⟩))))))
  | _ =>
    cases ph <;> cases h
    simp

/-! ## The pseudo-operations -/

/-- Exchanging the references exchanges what CWSTEP and CCWSTEP expand to (30_encoding.md rule R80). -/
@[simp] theorem cwStep_exchange (p : Params) : cwStep p.exchange = ccwStep p := rfl
@[simp] theorem ccwStep_exchange (p : Params) : ccwStep p.exchange = cwStep p := rfl

/-- As operations, a path is the OBSERVEs of its four codes. -/
theorem opsOf_pathOf (w : Window) :
    (pathOf w).flatMap opsOf = [slot w 3, slot w 2, slot w 1, slot w 0].map Op.observeCode := rfl

/-! ## A split state as an indivisible one -/

theorem SplitState.asIndivisible_outside {s : SplitState} (h : s.phase = .outside) :
    s.asIndivisible = (s.block, s.answers) := by simp [SplitState.asIndivisible, h]
theorem SplitState.asIndivisible_entered {s : SplitState} {v : Bool} (h : s.phase = .entered v) :
    s.asIndivisible = (takeEvent s.block, s.answers ++ [readResult s.block]) := by simp [SplitState.asIndivisible, h]
theorem SplitState.asIndivisible_copied {s : SplitState} {v : Bool} {d : Dir} {n : Count} (h : s.phase = .copied v d n) :
    s.asIndivisible = (takeEvent s.block, s.answers ++ [.event d n]) := by simp [SplitState.asIndivisible, h]
theorem SplitState.asIndivisible_leaving {s : SplitState} {v : Bool} {r : ReadResult} (h : s.phase = .leaving v r) :
    s.asIndivisible = (s.block, s.answers ++ [r]) := by simp [SplitState.asIndivisible, h]

end Sys2Proof.Machine
end

