-- ==== Sys2Proof/Laws/PerInstr.lean ====
section
/-! SUPPORT. Per-instruction facts about the syntax: the request lines of each canonical command word (30_encoding.md rule R76),
one lemma per constructor. -/

namespace Sys2Proof.Laws.RequestLines

/-- The lines rst, rd and obs of an instruction's canonical word. -/
def lines : Instr → Bool × Bool × Bool
  | .reset => (true, false, false)
  | .idle => (false, false, false)
  | .observe _ _ => (false, false, true)
  | .read => (false, true, false)
  | .readObserve _ _ => (false, true, true)

/-- The canonical word raises exactly the instruction's request lines. -/
def Statement (i : Instr) : Prop :=
  (Cmd.rst (encode i), Cmd.rd (encode i), Cmd.obs (encode i)) = lines i

theorem reset : Statement .reset := by unfold Statement; decide
theorem idle : Statement .idle := by unfold Statement; decide
theorem observe (a b : Bool) : Statement (.observe a b) := by
  unfold Statement; cases a <;> cases b <;> decide
theorem read : Statement .read := by unfold Statement; decide
theorem readObserve (a b : Bool) : Statement (.readObserve a b) := by
  unfold Statement; cases a <;> cases b <;> decide

end Sys2Proof.Laws.RequestLines
end

