-- ==== Sys2Proof/Tests/Slice0.lean ====
section
/-! SUPPORT. Tests whose expected results are the spec's own (95_test_vectors.md and the worked examples of the section files),
smoke tests of WellFormed, and for each obligation with hypotheses a witness that meets them. -/

namespace Sys2Proof.Tests

open Sys2Proof.Machine

/-- A small state: window, tag, count, one command word waiting. -/
def st (h : Window) (d : Dir) (n : Count) (w : Cmd) : State :=
  { block := { hw := h, ev := { dir := d, count := n } }, cmds := [w], answers := [] }

/-- The block after one step, or none if the step did not go on. -/
def blockAfter (s : State) : Option Block :=
  match step s with
  | .next t => some t.block
  | .fault _ => none
  | .refused _ => none

/-- The response words after one step. -/
def wordsAfter (s : State) : Option (List Rsp) :=
  match step s with
  | .next t => some t.responses
  | .fault _ => none
  | .refused _ => none

/-- A block written out. -/
def blk (h : Window) (d : Dir) (n : Count) : Block := { hw := h, ev := { dir := d, count := n } }

/-! ## WellFormed: a term each check refuses -/

theorem test_refs_one_code_early_refused : ({ refCw := 0xD2, refCcw := 0xE1, hwReset := 0xFF } : Params).wellFormed = false := by
  decide
theorem test_equal_refs_refused : ({ refCw := 0x4B, refCcw := 0x4B, hwReset := 0xFF } : Params).refsWellFormed = false := by
  decide
theorem test_reset_window_0x01_refused : ({ refCw := 0x4B, refCcw := 0x87, hwReset := 0x01 } : Params).wellFormed = false := by
  decide
theorem test_params_accepted : params.wellFormed = true ∧ params.exchange.wellFormed = true := by decide
/-- V29: words that can never appear. -/
theorem test_response_words_refused :
    ∀ r ∈ ([0x400, 0x500, 0x600, 0x700, 0x401, 0x301, 0x001] : List Rsp), Rsp.wellFormed r = false := by decide
/-- V29: words that do. -/
theorem test_response_words_accepted :
    ∀ r ∈ ([0x000, 0x501, 0x580, 0x5FF, 0x601, 0x607, 0x6FF] : List Rsp), Rsp.wellFormed r = true := by decide
theorem test_every_instruction_is_well_formed (a b : Bool) :
    [Instr.reset, .idle, .observe a b, .read, .readObserve a b].all Instr.wellFormed = true := rfl

/-! ## Decoding: words written out bit by bit from 30_encoding.md rules R76, R77 (V1, V28) -/

theorem test_decode_observe : decodeCmd 0b00101 = .observe true false ∧ decodeCmd 0b00110 = .observe false true := by decide
theorem test_decode_idle_ignores_levels : decodeCmd 0b00000 = .idle ∧ decodeCmd 0b00011 = .idle := by decide
theorem test_decode_read_ignores_levels : decodeCmd 0b01000 = .read ∧ decodeCmd 0b01010 = .read := by decide
theorem test_decode_read_observe : decodeCmd 0b01101 = .readObserve true false ∧ decodeCmd 0b01110 = .readObserve false true := by
  decide
theorem test_decode_reset_overrides : decodeCmd 0b10000 = .reset ∧ decodeCmd 0b11111 = .reset ∧ decodeCmd 0b11000 = .reset := by
  decide
/-- P1: CWSTEP is the words 0x05, 0x04, 0x06, 0x07. -/
theorem test_cwstep_words : (cwStep params).map encode = [0x05, 0x04, 0x06, 0x07] := by decide
/-- P2: CCWSTEP is the words 0x06, 0x04, 0x05, 0x07. -/
theorem test_ccwstep_words : (ccwStep params).map encode = [0x06, 0x04, 0x05, 0x07] := by decide
/-- R80: under the opposite assignment of decision D2 CWSTEP is the words of CCWSTEP. -/
theorem test_cwstep_words_exchanged : (cwStep params.exchange).map encode = [0x06, 0x04, 0x05, 0x07] := by decide
/-- 30_encoding.md rule R75: phase A is written first. -/
theorem test_render_observe : (Instr.observe true false).render = "OBSERVE 1, 0" := by decide

/-! ## One step per test -/

/-- V2: 0xD2, code 11: the clockwise path is complete. -/
theorem test_observe_completes_cw : blockAfter (st 0xD2 .none 0 0x07) = some (blk 0x4B .cw 1) := by decide
/-- V2: 0x4B, code 11: a repeated sample records no second step. -/
theorem test_observe_repeat_records_nothing : blockAfter (st 0x4B .none 0 0x07) = some (blk 0x4B .none 0) := by decide
/-- IDLE from any state: nothing, response 0x000 (section 2.4). -/
theorem test_idle : blockAfter (st 0x2D .cw 200 0x03) = some (blk 0x2D .cw 200) ∧ wordsAfter (st 0x2D .cw 200 0x03) = some [0x000] := by
  decide
/-- With no command waiting a step is IDLE. -/
theorem test_empty_port_is_idle : step State.reset = .next { State.reset with answers := [none] } := rfl
/-- V24: (DIR_CCW, 7) answers 0x607 and keeps the tag. -/
theorem test_read_takes : blockAfter (st 0x87 .ccw 7 0x08) = some (blk 0x87 .ccw 0) ∧ wordsAfter (st 0x87 .ccw 7 0x08) = some [0x607] := by
  decide
/-- V24: an empty cell with a stale tag answers 0x000. -/
theorem test_read_stale_tag : blockAfter (st 0x4B .cw 0 0x08) = some (blk 0x4B .cw 0) ∧ wordsAfter (st 0x4B .cw 0 0x08) = some [0x000] := by
  decide
/-- V26: READ_OBSERVE 1, 1 from 0xD2, (DIR_CW, 3): the step is not in this response and starts a run of 1. -/
theorem test_read_observe_new_run :
    blockAfter (st 0xD2 .cw 3 0x0F) = some (blk 0x4B .cw 1) ∧ wordsAfter (st 0xD2 .cw 3 0x0F) = some [0x503] := by decide
/-- V26: READ_OBSERVE 0, 1 from the same state does not shift. -/
theorem test_read_observe_no_shift :
    blockAfter (st 0xD2 .cw 3 0x0E) = some (blk 0xD2 .cw 0) ∧ wordsAfter (st 0xD2 .cw 3 0x0E) = some [0x503] := by decide
/-- V27: word 0x1F: the pending event is not delivered and the sample is not observed. -/
theorem test_reset_overrides : blockAfter (st 0xD2 .cw 3 0x1F) = some (blk 0xFF .none 0) ∧ wordsAfter (st 0xD2 .cw 3 0x1F) = some [0x000] := by
  decide
/-- V21: the boundary of the counter, and a reversal from it. -/
theorem test_record_step_boundary :
    recordStep .cw { dir := .cw, count := 254 } = { dir := .cw, count := 255 } ∧
    recordStep .cw { dir := .cw, count := 255 } = { dir := .cw, count := 255 } ∧
    recordStep .ccw { dir := .cw, count := 255 } = { dir := .ccw, count := 1 } := by decide
/-- V23: a stale equal tag and a stale different tag. -/
theorem test_record_step_stale :
    recordStep .ccw { dir := .ccw, count := 0 } = { dir := .ccw, count := 1 } ∧
    recordStep .cw { dir := .ccw, count := 0 } = { dir := .cw, count := 1 } := by decide
/-- V3: the two references and their near misses. -/
theorem test_classify :
    classify params 0x4B = .cw ∧ classify params 0x87 = .ccw ∧
    ∀ w ∈ ([0xD2, 0xE1, 0x2D, 0x47, 0x8B, 0x4A, 0xCB, 0x0B, 0xFF, 0x00] : List Window), classify params w = .none := by decide
/-- 40_decoder_fsm.md rule R107: the windows of the clockwise path from 0x87. -/
theorem test_windows_of_cw_path_from_0x87 :
    windowAfter 0x87 [0b01] = 0x1D ∧ windowAfter 0x87 [0b01, 0b00] = 0x74 ∧ windowAfter 0x87 [0b01, 0b00, 0b10] = 0xD2 := by decide
/-- V30: CS_ENTER of a READ_split entered with PE set shuts the producer out and saves PE. -/
theorem test_cs_enter :
    splitStep params .csEnter { block := blk 0xD2 .cw 2, pe := true, phase := .outside, answers := [] } =
      some { block := blk 0xD2 .cw 2, pe := false, phase := .entered true, answers := [] } := by decide

/-! ## Witnesses: states and operands that meet the hypotheses of the obligations -/

theorem witness_BytesThatAreNoCommandWordRejected : 32 ≤ (0x20 : Byte).toNat ∧ 32 ≤ (0xFF : Byte).toNat := by decide
theorem witness_StepRunsTheDecodedCommand : (st 0xFF .none 0 0x10).cmds = 0x10 :: [] ∧ State.reset.cmds = [] := ⟨rfl, rfl⟩
theorem witness_PresentedWordRunsNext : 0 < 32 ∧ 31 < 32 ∧ 5 ≤ 5 ∧ 5 ≤ 8 := by decide
theorem witness_ObserveFollowsItsSteps_unchanged : 2 * true.toNat + true.toNat = (st 0xFF .none 0 0).block.hw.toNat % 4 := by decide
theorem witness_ObserveFollowsItsSteps_changed : 2 * true.toNat + true.toNat ≠ (st 0xD2 .none 0 0).block.hw.toNat % 4 := by decide
theorem witness_ObserveFollowsItsSteps_ccw : (blockAfter (st 0xE1 .none 0 0x07)).map Block.hw = some params.refCcw := by decide
theorem witness_ObserveFollowsItsSteps_cw : (blockAfter (st 0xD2 .none 0 0x07)).map Block.hw = some params.refCw ∧
    params.refCw ≠ params.refCcw := by decide
theorem witness_ObserveFollowsItsSteps_neither : (blockAfter (st 0xFF .none 0 0x05)).map Block.hw = some 0xFD ∧
    (0xFD : Window) ≠ params.refCcw ∧ (0xFD : Window) ≠ params.refCw := by decide
theorem witness_RepeatedSamplesChangeNothing : packCode true true = slot State.reset.block.hw 0 := by decide
theorem witness_ObserveRecordsAtMostOneStep : params.refCw ≠ params.refCcw := by decide
theorem witness_IdleHoldsTheBlock : ∀ w ∈ (st 0xFF .none 0 0x03).cmds, w &&& 0x1C = 0x00 := by decide
theorem witness_MatchCertifiesCanonicalPath : params.refsWellFormed = true ∧ classify params 0x4B ≠ .none := by decide
theorem witness_StepsAreRecordedOnlyAtRest_output : params.refsWellFormed = true ∧ mealyOut params 0xD2 0b11 ≠ .none := by decide
theorem witness_StepsAreRecordedOnlyAtRest_levels : (true && false) = false ∧ (false && false) = false := by decide
theorem witness_DecoderOutputsExactly : (0b10 : Code) ≠ 0b11 := by decide
theorem witness_WindowsDivideIntoFourClasses : classify params 0x87 ≠ .none ∧ grayValid 0x11 = true := by decide
theorem witness_StepsAreFourShiftsApart : params.refsWellFormed = true ∧ mealyOut params 0xD2 0b11 ≠ .none ∧
    mealyOut params (windowAfter (mealyNext 0xD2 0b11) [0b01, 0b00, 0b10]) 0b11 ≠ .none := by decide
theorem witness_WindowIsLastFourDedupedCodes : mealyOut params (windowAfter 0xFF [0b01, 0b00, 0b10]) 0b11 ≠ .none := by decide
theorem witness_EveryOperationKeepsWindowsSameButFiller : params.refsWellFormed = true ∧ sameButFiller 0xFF 0x00 = true ∧
    sameButFiller 0xF4 0x04 = true ∧ sameButFiller 0xFF 0x0F = true ∧ sameButFiller 0xD2 0xD2 = true ∧
    sameButFiller 0xFF 0x01 = false := by decide
theorem witness_CleanPathRecordsOneStep : params.refsWellFormed = true ∧ params.exchange.refsWellFormed = true ∧ slot (blk 0x87 .ccw 255).hw 0 = restCode := by decide
theorem witness_BounceRecordsNothing : params.refsWellFormed = true ∧ slot (blk 0x4B .cw 1).hw 0 = restCode := by decide
theorem witness_RecordStepCountsOrOverwrites : ({ dir := .cw, count := 255 } : StepEvent).dir ≠ .ccw ∧
    ({ dir := .cw, count := 255 } : StepEvent).dir = .cw := by decide
theorem witness_CleanStepsSaturateAt255 : params.exchange.refsWellFormed = true ∧ slot (blk 0x4B .cw 0).hw 0 = restCode ∧ (blk 0x4B .cw 0).ev.count = 0 := by decide
theorem witness_ReversalDiscardsTheEarlierRun : params.refsWellFormed = true ∧ slot (blk 0xFF .none 0).hw 0 = restCode := by decide
theorem witness_EmptyCellTagUnobservable : (blk 0x4B .cw 0).hw = (blk 0x4B .ccw 0).hw ∧ (blk 0x4B .cw 0).ev.count = 0 ∧
    (blk 0x4B .ccw 0).ev.count = 0 := by decide
theorem witness_EachRunIsDeliveredOnce :
    stepsRecorded params (blk 0xD2 .cw 3).hw [.observe false true, .read, .observe false false, .read] = [] := by decide
theorem witness_ReadObserveIsReadThenObserve : mealyOut params (st 0xD2 .cw 3 0).block.hw (packCode true true) ≠ .none := by decide
theorem witness_CountChangesByTheRules : ∃ t u v w x, exec .reset State.reset = .next t ∧ exec .idle State.reset = .next u ∧
    exec .read State.reset = .next v ∧ exec (.observe true false) State.reset = .next w ∧
    exec (.readObserve true false) State.reset = .next x := ⟨_, _, _, _, _, rfl, rfl, rfl, rfl, rfl⟩
theorem witness_ReadReportsTheLastUnbrokenRun : (blk 0xD2 .cw 0).ev.count = 0 := by decide
theorem witness_PortRunReportsTheLastUnbrokenRun : (st 0xD2 .cw 0 0x0F).block.ev.count = 0 := by decide
theorem witness_EveryStepFollowsTheHistory : State.reset.block.Follows { hw := 0xFF, since := [] } ∧
    (st 0xD2 .cw 3 0x0F).block.Follows { hw := 0xD2, since := [.ccw, .cw, .cw, .cw] } ∧
    ∃ t, step (st 0xD2 .cw 3 0x0F) = .next t ∧ t.block.Follows { hw := 0x4B, since := [.cw] } :=
  ⟨by decide, by decide, _, rfl, by decide⟩
theorem witness_NoStepLostWithoutReversalOrSaturation :
    (∀ o ∈ [Op.read, .observe true true, .read], o ≠ .reset) ∧
    (∀ x ∈ stepsRecorded params (blk 0xD2 .cw 254).hw [.read, .observe true true, .read], x = .cw) ∧
    ((blk 0xD2 .cw 254).ev.count ≠ 0 → (blk 0xD2 .cw 254).ev.dir = .cw) ∧
    (blk 0xD2 .cw 254).ev.count.toNat + (stepsRecorded params (blk 0xD2 .cw 254).hw [.read, .observe true true, .read]).length ≤ 255 := by
  decide
theorem witness_ReadsNeverDisturbDecoding :
    Interleaves [.observe true true] [.read, .read] [.read, .observe true true, .read] ∧ ∀ o ∈ [Op.read, .read], o = .read :=
  ⟨.right _ (.left _ (.right _ .done)), by decide⟩
theorem witness_ResetWritesTheWholeBlock : (0x1F : Cmd).getLsbD 4 = true ∧ (0x10 : Cmd).getLsbD 4 = true := by decide
theorem witness_CellIsEmptyAfterReset : stepsRecorded params params.hwReset [.read, .observe true false, .read] = [] := by decide
theorem witness_WindowWrittenOnlyByChangedSample : ∃ t, exec (.observe true false) State.reset = .next t ∧
    t.block.hw ≠ State.reset.block.hw := ⟨_, rfl, by decide⟩
theorem witness_CellWrittenOnlyByItsThreeWriters : ∃ t u v w, exec .read (st 0x4B .cw 1 0) = .next t ∧
    t.block.ev ≠ (st 0x4B .cw 1 0).block.ev ∧ exec (.observe true true) (st 0xD2 .cw 1 0) = .next u ∧
    u.block.ev ≠ (st 0xD2 .cw 1 0).block.ev ∧ exec (.readObserve true false) (st 0xD2 .cw 1 0) = .next v ∧
    v.block.ev ≠ (st 0xD2 .cw 1 0).block.ev ∧ exec .reset (st 0xD2 .cw 1 0) = .next w ∧
    w.block.ev ≠ (st 0xD2 .cw 1 0).block.ev :=
  ⟨_, _, _, _, rfl, by decide, rfl, by decide, rfl, by decide, rfl, by decide⟩
theorem witness_EveryStepKeepsTheInvariant : (st 0xD2 .cw 255 0x0F).Inv ∧ ∃ t, step (st 0xD2 .cw 255 0x0F) = .next t :=
  ⟨by decide, _, rfl⟩
theorem witness_ExchangingReferencesExchangesTags : params.refCw ≠ params.refCcw := by decide
theorem witness_SwappingWiresExchangesDirections : params.wellFormed = true ∧ params.exchange.wellFormed = true := by decide

/-- A state of the split setting with no READ in progress. -/
def split (n : Count) (pe : Bool) : SplitState :=
  { block := blk 0xD2 .cw n, pe := pe, phase := .outside, answers := [] }

theorem witness_SplitReadRunsToItsEnd : (split 0 true).phase = .outside ∧ (split 0 true).block.ev.count = 0 ∧
    (split 2 false).phase = .outside ∧ (split 2 false).block.ev.count ≠ 0 := by decide
theorem witness_SplitReadIsReadAtItsEntry : ∃ t,
    splitRun params [.csEnter, .inspect, .clear, .csExit, .sample true true] (split 2 true) = some t ∧ t.phase = .outside :=
  ⟨_, rfl, rfl⟩
theorem witness_EverySplitMoveIsItsOperations :
    (split 2 true).Inv ∧ (∃ t, splitStep params .csEnter (split 2 true) = some t ∧
      t.asIndivisible = (blk 0xD2 .cw 0, [.event .cw 2])) ∧
    (∃ t, splitStep params (.sample true true) (split 2 true) = some t ∧ t.asIndivisible = (blk 0x4B .cw 3, [])) ∧
    ({ split 2 false with phase := .copied true .cw 2 } : SplitState).Inv :=
  ⟨by decide, ⟨_, rfl, rfl⟩, ⟨_, rfl, rfl⟩, by decide⟩
theorem witness_SplitReadRestoresProducerEnable : (split 2 false).phase = .outside ∧
    (∃ t, splitRun params [.csEnter, .inspect, .clear, .csExit] (split 2 false) = some t ∧ t.phase = .outside) ∧
    ∀ v, SplitMove.hostSet v ∉ [SplitMove.csEnter, .inspect, .clear, .csExit] := ⟨rfl, ⟨_, rfl, rfl⟩, by decide⟩
theorem witness_ProducerShutOutDuringSplitRead : (split 2 true).Inv ∧
    (∃ t, splitStep params .csEnter (split 2 true) = some t ∧ t.Inv ∧ t.phase ≠ .outside) :=
  ⟨by decide, _, rfl, by decide, by decide⟩
theorem witness_DeferredSampleMayFollowTheExit :
    ({ split 0 false with phase := .leaving true (.event .cw 2) } : SplitState).phase = .leaving true (.event .cw 2) := rfl

end Sys2Proof.Tests
end

section
/-! SUPPORT. The proofs of the statements about the state (10_state.md): which instruction changes the count and how (rule R27),
the derived predicates (rule R24), and the empty cell after reset (rule R33). -/

namespace Sys2Proof.Machine

/-! ## What an instruction does to the block -/

/-- An instruction leaves the block that its operations leave. -/
theorem exec_next_block {i : Instr} {s t : State} (h : exec i s = .next t) :
    t.block = (runOps params (opsOf i) s.block).1 := by
  obtain ⟨rfl, rfl⟩ | ⟨rfl, rfl⟩ | ⟨a, b, rfl, rfl⟩ | ⟨rfl, rfl⟩ | ⟨a, b, rfl, rfl⟩ := exec_next_cases h <;> rfl

/-! ## What RECORD_STEP and OBSERVE do to the count -/

/-- A step recorded on an empty cell starts a run of 1, whatever the cell's tag. -/
theorem recordStep_of_count_zero (d : Dir) {e : StepEvent} (h : e.count = 0) :
    recordStep d e = { dir := d, count := 1 } := by
  obtain ⟨_, hr⟩ | ⟨_, h255, _⟩ | ⟨_, _, hr⟩ := recordStep_cases d e
  · exact hr
  · simp [h] at h255
  · simpa [h] using hr

/-- RECORD_STEP leaves a saturated run, lengthens a run by one, or starts a run of another direction. -/
theorem recordStep_count_cases (d : Dir) (e : StepEvent) :
    recordStep d e = e ∨
      ((recordStep d e).dir = e.dir ∧ (recordStep d e).count.toNat = e.count.toNat + 1) ∨
      ((recordStep d e).dir ≠ e.dir ∧ (recordStep d e).count = 1) := by
  obtain ⟨hd, hr⟩ | ⟨_, _, hr⟩ | ⟨hd, h255, hr⟩ := recordStep_cases d e
  · exact .inr (.inr ⟨by simpa [hr] using hd.symm, by rw [hr]⟩)
  · exact .inl hr
  · have hsucc : (e.count + 1).toNat = e.count.toNat + 1 := by bv_omega
    exact .inr (.inl ⟨by rw [hr, hd], by rw [hr, hsucc]⟩)

/-- OBSERVE leaves the cell, or records one step on it. -/
theorem observe_ev_cases (p : Params) (a b : Bool) (k : Block) :
    (observe p a b k).ev = k.ev ∨ ∃ d, (observe p a b k).ev = recordStep d k.ev := by
  rw [observe_ev]
  split
  · exact .inl rfl
  · exact .inr ⟨_, rfl⟩

/-! ## Runs in which no step is recorded -/

/-- One operation of a run that records no step, from an empty cell: the cell stays empty, the rest of the run still records no
step, and a READ answers NoEvent. -/
theorem runOp_of_no_step {p : Params} {o : Op} {os : List Op} {k : Block}
    (hs : stepsRecorded p k.hw (o :: os) = []) (h0 : k.ev.count = 0) :
    (runOp p o k).1.ev.count = 0 ∧ stepsRecorded p (runOp p o k).1.hw os = [] ∧
      ∀ r ∈ (runOp p o k).2, r = .noEvent := by
  cases o with
  | observe a b =>
    obtain ⟨hout, hrest⟩ := List.append_eq_nil_iff.1 hs
    have hnone : mealyOut p k.hw (packCode a b) = .none := by simpa using hout
    have hev : (observe p a b k).ev = k.ev := by rw [observe_ev, if_pos hnone]
    exact ⟨by simpa [runOp, hev] using h0, by simpa [runOp, observe_hw] using hrest, by simp [runOp]⟩
  | read =>
    obtain ⟨_, htake, hread⟩ | ⟨hpending, _, _⟩ := read_cases k
    · exact ⟨takeEvent_count k, by simpa [runOp, stepsRecorded] using hs, by simp [runOp, hread]⟩
    · exact absurd h0 hpending
  | reset => exact ⟨rfl, hs, by simp [runOp]⟩

/-- From an empty cell, every READ answers NoEvent as long as no step is recorded. -/
theorem runOps_noEvent_of_no_step {p : Params} {ops : List Op} {k : Block}
    (hs : stepsRecorded p k.hw ops = []) (h0 : k.ev.count = 0) : ∀ r ∈ (runOps p ops k).2, r = .noEvent := by
  induction ops generalizing k with
  | nil => simp [runOps]
  | cons o os ih =>
    obtain ⟨hempty, hrest, hread⟩ := runOp_of_no_step hs h0
    intro r hr
    obtain hfirst | hlater := List.mem_append.1 hr
    · exact hread r (Option.mem_toList.1 hfirst)
    · exact ih hrest hempty r hlater

/-! ## The statements -/

/-- Settles O36, from the block each instruction leaves and what RECORD_STEP does to the count; READ_OBSERVE's sample finds the
cell its READ has emptied (decision D7, log entry 8). -/
theorem countChangesByTheRules : Obligations.CountChangesByTheRules := by
  unfold Obligations.CountChangesByTheRules
  refine ⟨fun s t h => ?reset, fun s t h => ?idle, fun s t h => ?read, fun a b s t h => ?observe,
    fun a b s t h => ?readObserve⟩ <;>
    rw [exec_next_block h]
  case reset => rfl
  case idle => rfl
  case read => exact takeEvent_count s.block
  case observe =>
    obtain hev | ⟨d, hev⟩ := observe_ev_cases params a b s.block
    · exact .inl hev
    · simpa only [opsOf, runOps, runOp, hev] using recordStep_count_cases d s.block.ev
  case readObserve =>
    simp only [opsOf, runOps, runOp]
    obtain hev | ⟨d, hev⟩ := observe_ev_cases params a b (takeEvent s.block)
    · left; simp [hev]
    · right; rw [hev, recordStep_of_count_zero d (takeEvent_count s.block)]

/-- Settles O43, by induction on the operations from an empty cell. -/
theorem cellIsEmptyAfterReset : Obligations.CellIsEmptyAfterReset := by
  unfold Obligations.CellIsEmptyAfterReset
  exact ⟨fun _ => rfl, rfl, fun _ _ hs => runOps_noEvent_of_no_step hs rfl⟩

/-- Settles O35: each predicate compares the count alone, and READ branches on empty. -/
theorem emptinessIsTheCountAlone : Obligations.EmptinessIsTheCountAlone := by
  unfold Obligations.EmptinessIsTheCountAlone
  refine ⟨fun e => ⟨isEmpty_iff_count e, isPending_iff_count e⟩, fun _ _ => ⟨rfl, rfl⟩, fun k => ?_⟩
  obtain ⟨hempty, _, hread⟩ | ⟨hpending, _, hread⟩ := read_cases k
  · exact iff_of_true hread hempty
  · exact iff_of_false (by simp [hread]) hpending

end Sys2Proof.Machine
end

section
/-! SUPPORT. The proofs of the statements about the encodings (30_encoding.md): the pin code and the window as numbers (rules
R70, R71), the pseudo-operations (rule R80), and what runs of canonical paths do to the block (41_gray_code_validator.md section
2, 95_test_vectors.md properties S3 and S4). -/

namespace Sys2Proof.Machine

/-! ## Codes and windows as numbers -/

/-- The value of two bit strings put side by side, the first one on top. -/
theorem toNat_append_eq_mul_add {m n : Nat} (x : BitVec m) (y : BitVec n) :
    (x ++ y).toNat = 2 ^ n * x.toNat + y.toNat := by
  rw [BitVec.toNat_append, ← Nat.shiftLeft_add_eq_or_of_lt y.isLt, Nat.shiftLeft_eq, Nat.mul_comm]

theorem packCode_toNat (a b : Bool) : (packCode a b).toNat = 2 * b.toNat + a.toNat :=
  (toNat_append_eq_mul_add _ _).trans (by simp)

theorem windowOf_toNat (c3 c2 c1 c0 : Code) :
    (windowOf c3 c2 c1 c0).toNat = 64 * c3.toNat + 16 * c2.toNat + 4 * c1.toNat + c0.toNat := by
  simp only [windowOf, toNat_append_eq_mul_add]
  omega

/-- A shift moves the three newer codes up by one slot. -/
theorem shiftIn_eq_windowOf (h : Window) (c : Code) : shiftIn h c = windowOf (slot h 2) (slot h 1) (slot h 0) c := by
  rw [← windowOf_slots (shiftIn h c), slot_three_shiftIn, slot_two_shiftIn, slot_one_shiftIn, slot_zero_shiftIn]

theorem shiftIn_eq_append (h : Window) (c : Code) : shiftIn h c = h.extractLsb' 0 6 ++ c := by
  have h21 : slot h 2 ++ slot h 1 = h.extractLsb' 2 4 :=
    BitVec.extractLsb'_append_extractLsb'_eq_extractLsb' rfl
  have h210 : h.extractLsb' 2 4 ++ slot h 0 = h.extractLsb' 0 6 :=
    BitVec.extractLsb'_append_extractLsb'_eq_extractLsb' rfl
  rw [shiftIn_eq_windowOf, windowOf, h21, h210]

/-- Four shifts replace the whole window. -/
theorem shiftIn_four (h : Window) (c3 c2 c1 c0 : Code) :
    shiftIn (shiftIn (shiftIn (shiftIn h c3) c2) c1) c0 = windowOf c3 c2 c1 c0 := by
  simp only [shiftIn_eq_windowOf _ c0, slot_two_shiftIn, slot_one_shiftIn, slot_zero_shiftIn]

/-- The slots of a window are the codes it was made of. -/
theorem slots_windowOf (c3 c2 c1 c0 : Code) :
    slot (windowOf c3 c2 c1 c0) 0 = c0 ∧ slot (windowOf c3 c2 c1 c0) 1 = c1 ∧
      slot (windowOf c3 c2 c1 c0) 2 = c2 ∧ slot (windowOf c3 c2 c1 c0) 3 = c3 := by
  rw [← shiftIn_four 0]
  simp only [slot_zero_shiftIn, slot_one_shiftIn, slot_two_shiftIn, slot_three_shiftIn, and_self]

/-- The path of a window is the OBSCs of the codes it was made of, oldest first. -/
theorem pathOf_windowOf (c3 c2 c1 c0 : Code) :
    pathOf (windowOf c3 c2 c1 c0) = [obsc c3, obsc c2, obsc c1, obsc c0] := by
  obtain ⟨h0, h1, h2, h3⟩ := slots_windowOf c3 c2 c1 c0
  rw [pathOf, h0, h1, h2, h3]

/-! ## The references of an admitted pair -/

theorem refsWellFormed_cases {p : Params} (hp : p.refsWellFormed = true) :
    (p.refCw = 0x4B ∧ p.refCcw = 0x87) ∨ (p.refCw = 0x87 ∧ p.refCcw = 0x4B) := by
  simpa [Params.refsWellFormed] using hp

/-- Each reference of an admitted pair is accepted in its own direction. -/
theorem classify_refs {p : Params} (hp : p.refsWellFormed = true) :
    classify p p.refCw = .cw ∧ classify p p.refCcw = .ccw := by
  have hne : p.refCw ≠ p.refCcw := by
    obtain ⟨hcw, hccw⟩ | ⟨hcw, hccw⟩ := refsWellFormed_cases hp <;> rw [hcw, hccw] <;> decide
  exact ⟨by rw [classify, if_neg hne, if_pos rfl], by rw [classify, if_pos rfl]⟩

/-- An accepted window is 0x4B or 0x87. -/
theorem eq_of_accepted {p : Params} (hp : p.refsWellFormed = true) {w : Window} (hw : classify p w ≠ .none) :
    w = 0x4B ∨ w = 0x87 := by
  have hrefs := refsWellFormed_cases hp
  obtain ⟨h, _⟩ | ⟨_, h, _⟩ | ⟨_, _, hnone⟩ := classify_cases p w
  · rw [h]; tauto
  · rw [h]; tauto
  · exact absurd hnone hw

/-- The codes of an accepted window: the newest alone is rest, and each differs from the one before it. -/
theorem slots_of_accepted {p : Params} (hp : p.refsWellFormed = true) {w : Window} (hw : classify p w ≠ .none) :
    slot w 3 ≠ restCode ∧ slot w 2 ≠ restCode ∧ slot w 1 ≠ restCode ∧ slot w 0 = restCode ∧
      slot w 2 ≠ slot w 3 ∧ slot w 1 ≠ slot w 2 := by
  obtain rfl | rfl := eq_of_accepted hp hw <;> decide

/-! ## One sample -/

/-- A changed sample of a code other than rest shifts the window and records nothing. -/
theorem runOps_observeCode_of_ne_rest {p : Params} (hp : p.refsWellFormed = true) {c : Code} {k : Block} (os : List Op)
    (hc : c ≠ slot k.hw 0) (hrest : c ≠ restCode) :
    runOps p (.observeCode c :: os) k = runOps p os { hw := shiftIn k.hw c, ev := k.ev } := by
  have hnone : classify p (shiftIn k.hw c) = .none := by
    by_contra hacc
    obtain ⟨-, -, -, hnewest, -, -⟩ := slots_of_accepted hp hacc
    exact hrest (slot_zero_shiftIn k.hw c ▸ hnewest)
  simp [Op.observeCode, runOps, runOp, observe, packCode_code, hc, hnone]

/-- A changed sample that completes an accepted window records its step. -/
theorem runOps_observeCode_of_accepted {p : Params} {c : Code} {k : Block} (os : List Op)
    (hc : c ≠ slot k.hw 0) (hacc : classify p (shiftIn k.hw c) ≠ .none) :
    runOps p (.observeCode c :: os) k =
      runOps p os { hw := shiftIn k.hw c, ev := recordStep (classify p (shiftIn k.hw c)) k.ev } := by
  simp only [Op.observeCode, runOps, runOp, observe, packCode_code, if_neg hc]
  cases hd : classify p (shiftIn k.hw c) with
  | none => exact absurd hd hacc
  | cw => rfl
  | ccw => rfl

/-! ## Canonical paths -/

section
variable {p : Params} (hp : p.refsWellFormed = true) {w : Window} (hw : classify p w ≠ .none)
include hp hw

/-- From rest, the path of an accepted window ends in that window and records its one step. -/
theorem runOps_path {k : Block} (hk : slot k.hw 0 = restCode) :
    runOps p ((pathOf w).flatMap opsOf) k = ({ hw := w, ev := recordStep (classify p w) k.ev }, []) := by
  obtain ⟨h3, h2, h1, h0, h32, h21⟩ := slots_of_accepted hp hw
  have hend : shiftIn (shiftIn (shiftIn (shiftIn k.hw (slot w 3)) (slot w 2)) (slot w 1)) (slot w 0) = w := by
    rw [shiftIn_four, windowOf_slots]
  simp only [opsOf_pathOf, List.map_cons, List.map_nil]
  rw [runOps_observeCode_of_ne_rest hp _ (by rwa [hk]) h3,
    runOps_observeCode_of_ne_rest hp _ (by rwa [slot_zero_shiftIn]) h2,
    runOps_observeCode_of_ne_rest hp _ (by rwa [slot_zero_shiftIn]) h1,
    runOps_observeCode_of_accepted _ (by rw [slot_zero_shiftIn, h0]; exact h1.symm) (by rwa [hend]), hend]
  rfl

/-- From rest, n paths of an accepted window record n steps its way, answer nothing and end at rest. -/
theorem runOps_paths (n : Nat) {k : Block} (hk : slot k.hw 0 = restCode) :
    ∃ h, slot h 0 = restCode ∧ runOps p ((List.replicate n (pathOf w)).flatten.flatMap opsOf) k =
      ({ hw := h, ev := (recordStep (classify p w))^[n] k.ev }, []) := by
  induction n generalizing k with
  | zero => exact ⟨k.hw, hk, rfl⟩
  | succ n ih =>
    obtain ⟨-, -, -, h0, -, -⟩ := slots_of_accepted hp hw
    obtain ⟨h, hrest, hrun⟩ := ih (k := { hw := w, ev := recordStep (classify p w) k.ev }) h0
    refine ⟨h, hrest, ?_⟩
    rw [List.replicate_succ, List.flatten_cons, List.flatMap_append, runOps_append, runOps_path hp hw hk, hrun]
    rfl

end

/-! ## Many steps one way, and READ after them -/

theorem toNat_ofNat_clamped (n : Nat) : (BitVec.ofNat 8 (min n 255)).toNat = min n 255 := by
  rw [BitVec.toNat_ofNat, Nat.mod_eq_of_lt (by omega)]

/-- A further step of the cell's own direction counts up, clamped at 255. -/
theorem recordStep_same_dir (d : Dir) (n : Count) :
    recordStep d { dir := d, count := n } = { dir := d, count := BitVec.ofNat 8 (min (n.toNat + 1) 255) } := by
  obtain ⟨hne, _⟩ | ⟨_, hfull, hr⟩ | ⟨_, hnotFull, hr⟩ := recordStep_cases d { dir := d, count := n }
  · exact absurd rfl hne
  · obtain rfl : n = 255 := hfull
    exact hr
  · have hcount : n + 1 = BitVec.ofNat 8 (min (n.toNat + 1) 255) := by bv_omega
    rw [hr, hcount]

/-- n + 1 steps one way, recorded on an empty cell, leave that direction and their number clamped at 255. -/
theorem iterate_recordStep_of_count_zero (d : Dir) (n : Nat) {e : StepEvent} (h : e.count = 0) :
    (recordStep d)^[n + 1] e = { dir := d, count := BitVec.ofNat 8 (min (n + 1) 255) } := by
  induction n with
  | zero => exact recordStep_of_count_zero d h
  | succ n ih =>
    have hmin : min (min (n + 1) 255 + 1) 255 = min (n + 1 + 1) 255 := by omega
    rw [Function.iterate_succ_apply', ih, recordStep_same_dir, toNat_ofNat_clamped, hmin]

/-- READ of a pending cell answers the pair and takes it. -/
theorem runOps_read_of_pending {p : Params} {k : Block} (os : List Op) (h : k.ev.count ≠ 0) :
    (runOps p (.read :: os) k).2 = .event k.ev.dir k.ev.count :: (runOps p os (takeEvent k)).2 := by
  obtain ⟨h0, _⟩ | ⟨_, _, hr⟩ := read_cases k
  · exact absurd h0 h
  · simp [runOps, runOp, hr]

/-- READ of an empty cell answers NoEvent. -/
theorem runOps_read_of_empty {p : Params} {k : Block} (os : List Op) (h : k.ev.count = 0) :
    (runOps p (.read :: os) k).2 = .noEvent :: (runOps p os k).2 := by
  obtain ⟨_, ht, hr⟩ | ⟨h0, _⟩ := read_cases k
  · simp [runOps, runOp, ht, hr]
  · exact absurd h h0

section
variable {p : Params} (hp : p.refsWellFormed = true) {w : Window} (hw : classify p w ≠ .none)
include hp hw

/-- From rest and with nothing pending, n + 1 paths of an accepted window and a READ report their number clamped at 255. -/
theorem runOps_paths_read (n : Nat) {k : Block} (hk : slot k.hw 0 = restCode) (h0 : k.ev.count = 0) :
    (runOps p ((List.replicate (n + 1) (pathOf w)).flatten.flatMap opsOf ++ [.read]) k).2 =
      [.event (classify p w) (BitVec.ofNat 8 (min (n + 1) 255))] := by
  obtain ⟨h, -, hrun⟩ := runOps_paths hp hw (n + 1) hk
  have hpending : BitVec.ofNat 8 (min (n + 1) 255) ≠ 0 := by bv_omega
  rw [runOps_append, hrun, iterate_recordStep_of_count_zero _ _ h0, runOps_read_of_pending _ hpending]
  rfl

/-- From rest, n + 1 paths of an accepted window, one path of a window accepted the other way and two READs report the one
step of the last path and then nothing. -/
theorem runOps_paths_reversal {w' : Window} (hw' : classify p w' ≠ .none) (hrev : classify p w ≠ classify p w') (n : Nat)
    {k : Block} (hk : slot k.hw 0 = restCode) :
    (runOps p ((List.replicate (n + 1) (pathOf w) ++ [pathOf w']).flatten.flatMap opsOf ++ [.read, .read]) k).2 =
      [.event (classify p w') 1, .noEvent] := by
  obtain ⟨h, hrest, hrun⟩ := runOps_paths hp hw (n + 1) hk
  have hdir : ((recordStep (classify p w))^[n + 1] k.ev).dir ≠ classify p w' := by
    rwa [Function.iterate_succ_apply', recordStep_dir]
  have hone : recordStep (classify p w') ((recordStep (classify p w))^[n + 1] k.ev) =
      { dir := classify p w', count := 1 } := by
    rw [recordStep, if_neg hdir]
  simp only [List.flatten_append, List.flatten_singleton, List.flatMap_append, runOps_append, hrun,
    runOps_path hp hw' (k := { hw := h, ev := _ }) hrest, hone, List.nil_append]
  rw [runOps_read_of_pending _ (show (1 : Count) ≠ 0 by decide), runOps_read_of_empty _ (takeEvent_count _)]
  rfl

end

/-! ## The statements -/

/-- Settles O26: the paths are those of the two references, each accepted in its own direction. -/
theorem cleanPathRecordsOneStep : Obligations.CleanPathRecordsOneStep := by
  intro p k hp hk
  obtain ⟨hcw, hccw⟩ := classify_refs hp
  exact ⟨hcw ▸ runOps_path hp (by simp [hcw]) hk, hccw ▸ runOps_path hp (by simp [hccw]) hk⟩

/-- Settles O29, by induction on the number of steps. -/
theorem cleanStepsSaturateAt255 : Obligations.CleanStepsSaturateAt255 := by
  intro p n k hp hk h0
  obtain ⟨hcw, hccw⟩ := classify_refs hp
  exact ⟨hcw ▸ runOps_paths_read hp (by simp [hcw]) n hk h0, hccw ▸ runOps_paths_read hp (by simp [hccw]) n hk h0⟩

/-- Settles O30: whatever the first run left, the last step finds the other direction's tag and overwrites it. -/
theorem reversalDiscardsTheEarlierRun : Obligations.ReversalDiscardsTheEarlierRun := by
  intro p n k hp hk
  obtain ⟨hcw, hccw⟩ := classify_refs hp
  exact ⟨hccw ▸ runOps_paths_reversal hp (by simp [hcw]) (by simp [hccw]) (by simp [hcw, hccw]) n hk,
    hcw ▸ runOps_paths_reversal hp (by simp [hccw]) (by simp [hcw]) (by simp [hcw, hccw]) n hk⟩

/-- Settles O1: the two lines put side by side. -/
theorem pinCodeHasPhaseBAbovePhaseA : Obligations.PinCodeHasPhaseBAbovePhaseA :=
  fun a b => ⟨packCode_toNat a b, codeB_packCode a b, codeA_packCode a b⟩

/-- Settles O2: four shifts make a window of four codes, and each shift moves the slots by one. -/
theorem windowHoldsFourCodesNewestLow : Obligations.WindowHoldsFourCodesNewestLow := by
  refine ⟨fun c3 c2 c1 c0 => ?_, shiftIn_eq_append, rfl⟩
  obtain ⟨h0, h1, h2, h3⟩ := slots_windowOf c3 c2 c1 c0
  exact ⟨h0, h1, h2, h3, windowOf_toNat c3 c2 c1 c0⟩

/-- Settles O59: the two references written as windows of four codes. -/
theorem pseudoOperationsExpand : Obligations.PseudoOperationsExpand :=
  ⟨fun _ => rfl, rfl, rfl, rfl, pathOf_windowOf 0b01 0b00 0b10 0b11, pathOf_windowOf 0b10 0b00 0b01 0b11,
    fun p => ⟨cwStep_exchange p, ccwStep_exchange p⟩⟩

end Sys2Proof.Machine
end

section
/-! SUPPORT. The proofs of the statements about the decoder (40_decoder_fsm.md): the shift as arithmetic (rule R102), what OBSERVE
does sample by sample (rules R100, R103), and repeated samples (rule R101). -/

namespace Sys2Proof.Machine

/-! ## The shift and the newest slot as numbers -/

theorem shiftIn_toNat (h : Window) (c : Code) : (shiftIn h c).toNat = (4 * h.toNat + c.toNat) % 256 := by
  rw [shiftIn_eq_append, toNat_append_eq_mul_add, BitVec.extractLsb'_toNat]
  simp only [Nat.shiftRight_zero]
  omega

theorem shiftIn_eq_add (h : Window) (c : Code) : shiftIn h c = h <<< 2 + c.setWidth 8 := by
  apply BitVec.eq_of_toNat_eq
  rw [shiftIn_toNat, BitVec.toNat_add, BitVec.toNat_shiftLeft, BitVec.toNat_setWidth, Nat.shiftLeft_eq]
  omega

/-- The code fills the two bits the left shift has vacated, so adding it and ORing it in are the same. -/
theorem shiftIn_eq_or (h : Window) (c : Code) : shiftIn h c = h <<< 2 ||| c.setWidth 8 := by
  have hdisjoint : h <<< 2 &&& c.setWidth 8 = 0#8 := by
    ext i hi
    simpa using fun (hle : 1 < i) _ => BitVec.getLsbD_of_ge c i hle
  rw [shiftIn_eq_add, BitVec.add_eq_or_of_and_eq_zero _ _ hdisjoint]

theorem shiftIn_upper_bits (h : Window) (c : Code) : (shiftIn h c).extractLsb' 2 6 = h.extractLsb' 0 6 := by
  rw [shiftIn_eq_append, BitVec.extractLsb'_append_eq_left]

theorem slot_zero_toNat (h : Window) : (slot h 0).toNat = h.toNat % 4 := by
  simp [slot, BitVec.extractLsb'_toNat]

/-- A sample repeats the newest code exactly if their values agree. -/
theorem packCode_eq_slot_zero_iff (a b : Bool) (h : Window) :
    packCode a b = slot h 0 ↔ 2 * b.toNat + a.toNat = h.toNat % 4 := by
  rw [← BitVec.toNat_inj, packCode_toNat, slot_zero_toNat]

/-! ## The Mealy machine -/

theorem classify_ne_none_iff (p : Params) (w : Window) :
    classify p w ≠ .none ↔ w = p.refCcw ∨ w = p.refCw := by
  obtain ⟨h, hd⟩ | ⟨_, h, hd⟩ | ⟨hccw, hcw, hd⟩ := classify_cases p w
  · exact iff_of_true (by simp [hd]) (.inl h)
  · exact iff_of_true (by simp [hd]) (.inr h)
  · exact iff_of_false (by simp [hd]) (by simp [hccw, hcw])

/-- The decoder puts out a step exactly if it shifted and the new window is accepted. -/
theorem mealyOut_ne_none_iff (p : Params) (h : Window) (c : Code) :
    mealyOut p h c ≠ .none ↔ c ≠ slot h 0 ∧ classify p (shiftIn h c) ≠ .none := by
  by_cases hc : c = slot h 0
  · simp [mealyOut, hc]
  · simp [mealyOut, hc]

/-- After any sample, a repeated one too, slot 0 holds its code. -/
theorem slot_zero_mealyNext (h : Window) (c : Code) : slot (mealyNext h c) 0 = c := by
  by_cases hc : c = slot h 0
  · rw [mealyNext, if_pos hc, hc]
  · rw [mealyNext, if_neg hc, slot_zero_shiftIn]

/-! ## Everything OBSERVE can do -/

/-- OBSERVE does nothing for a repeated code; else it shifts, and records the step of the reference that the new window
equals, the counter-clockwise one compared first, or none. -/
theorem observe_cases (p : Params) (a b : Bool) (k : Block) :
    (packCode a b = slot k.hw 0 ∧ observe p a b k = k) ∨
      (packCode a b ≠ slot k.hw 0 ∧ (observe p a b k).hw = shiftIn k.hw (packCode a b) ∧
        (((observe p a b k).hw = p.refCcw ∧ (observe p a b k).ev = recordStep .ccw k.ev) ∨
          ((observe p a b k).hw ≠ p.refCcw ∧ (observe p a b k).hw = p.refCw ∧
            (observe p a b k).ev = recordStep .cw k.ev) ∨
          ((observe p a b k).hw ≠ p.refCcw ∧ (observe p a b k).hw ≠ p.refCw ∧ (observe p a b k).ev = k.ev))) := by
  by_cases hc : packCode a b = slot k.hw 0
  · exact .inl ⟨hc, by rw [observe, if_pos hc]⟩
  · have hhw : (observe p a b k).hw = shiftIn k.hw (packCode a b) := by rw [observe_hw, mealyNext, if_neg hc]
    have hev := observe_ev p a b k
    rw [mealyOut, if_neg hc, ← hhw] at hev
    refine .inr ⟨hc, hhw, ?_⟩
    obtain ⟨hw, hd⟩ | ⟨hccw, hw, hd⟩ | ⟨hccw, hcw, hd⟩ := classify_cases p (observe p a b k).hw
    · exact .inl ⟨hw, by simpa [hd] using hev⟩
    · exact .inr (.inl ⟨hccw, hw, by simpa [hd] using hev⟩)
    · exact .inr (.inr ⟨hccw, hcw, by simpa [hd] using hev⟩)

/-- A sample equal to the newest slot leaves the block. -/
theorem observe_of_repeated (p : Params) {a b : Bool} {k : Block} (h : packCode a b = slot k.hw 0) :
    observe p a b k = k := by
  obtain ⟨_, hk⟩ | ⟨hne, _⟩ := observe_cases p a b k
  · exact hk
  · exact absurd h hne

theorem slot_zero_observe (p : Params) (a b : Bool) (k : Block) : slot (observe p a b k).hw 0 = packCode a b := by
  rw [observe_hw, slot_zero_mealyNext]

/-- The second of two equal samples does nothing. -/
theorem observe_observe_same (p : Params) (a b : Bool) (k : Block) :
    observe p a b (observe p a b k) = observe p a b k :=
  observe_of_repeated p (slot_zero_observe p a b k).symm

/-! ## Runs of samples -/

theorem runOps_observe_cons (p : Params) (a b : Bool) (os : List Op) (k : Block) :
    runOps p (.observe a b :: os) k = runOps p os (observe p a b k) := rfl

/-- Any number of equal samples, at least one, acts as one. -/
theorem runOps_replicate_observe (p : Params) (a b : Bool) (n : Nat) (k : Block) :
    runOps p (List.replicate (n + 1) (.observe a b)) k = runOps p [.observe a b] k := by
  induction n generalizing k with
  | zero => rfl
  | succ n ih =>
    rw [List.replicate_succ, runOps_observe_cons, ih, runOps_observe_cons, observe_observe_same, runOps_observe_cons]

/-- Leaving out each sample that repeats the code before it changes nothing. -/
theorem runOps_dedupAfter (p : Params) (cs : List Code) (k : Block) :
    runOps p (cs.map Op.observeCode) k = runOps p ((dedupAfter (slot k.hw 0) cs).map Op.observeCode) k := by
  induction cs generalizing k with
  | nil => rfl
  | cons c cs ih =>
    rw [List.map_cons, Op.observeCode, runOps_observe_cons, ih, slot_zero_observe, packCode_code, dedupAfter]
    by_cases hc : c = slot k.hw 0
    · rw [if_pos hc, observe_of_repeated p (by rwa [packCode_code]), ← hc]
    · rw [if_neg hc, List.map_cons, Op.observeCode, runOps_observe_cons]

/-! ## The statements -/

/-- Settles O12: the comparison and the shift as numbers, and the three outcomes of a changed sample. -/
theorem observeFollowsItsSteps : Obligations.ObserveFollowsItsSteps := by
  intro a b s
  have hcode := packCode_eq_slot_zero_iff a b s.block.hw
  refine ⟨s.finish (observe params a b s.block) none, rfl, rfl, rfl,
    fun hc => observe_of_repeated params (hcode.2 hc), fun hc => ?_⟩
  obtain ⟨hsame, _⟩ | ⟨_, hhw, hstep⟩ := observe_cases params a b s.block
  · exact absurd (hcode.1 hsame) hc
  · refine ⟨by rw [finish_block, hhw, shiftIn_toNat, packCode_toNat], ?_⟩
    rw [finish_block]
    obtain ⟨hw, hev⟩ | ⟨hccw, hw, hev⟩ | ⟨hccw, hcw, hev⟩ := hstep
    · exact ⟨fun _ => hev, fun hne => absurd hw hne, fun hne => absurd hw hne⟩
    · exact ⟨fun h => absurd h hccw, fun _ _ => hev, fun _ hne => absurd hw hne⟩
    · exact ⟨fun h => absurd h hccw, fun _ h => absurd h hcw, fun _ _ => hev⟩

/-- Settles O13: a repeated sample is the identity on the block; the runs follow by induction. -/
theorem repeatedSamplesChangeNothing : Obligations.RepeatedSamplesChangeNothing := by
  refine ⟨fun a b s hc => ?_, runOps_replicate_observe, runOps_dedupAfter⟩
  have hexec : exec (.observe a b) s = .next (s.finish (observe params a b s.block) none) := rfl
  rw [hexec, observe_of_repeated params hc, State.finish]

/-- Settles O15: the three outcomes of a changed sample, and that a window equals at most one of two different references. -/
theorem observeRecordsAtMostOneStep : Obligations.ObserveRecordsAtMostOneStep := by
  refine ⟨fun p a b k => ?_, fun p w hne => ?_⟩
  · obtain ⟨_, hk⟩ | ⟨hc, hhw, ⟨_, hev⟩ | ⟨_, _, hev⟩ | ⟨_, _, hev⟩⟩ := observe_cases p a b k
    · exact .inl (by rw [hk])
    · exact .inr ⟨hc, hhw, .inr hev⟩
    · exact .inr ⟨hc, hhw, .inl hev⟩
    · exact .inl hev
  · obtain ⟨hw, hd⟩ | ⟨_, hw, hd⟩ | ⟨hccw, hcw, hd⟩ := classify_cases p w
    · rw [hd, if_neg (hw ▸ hne.symm), if_pos hw]
    · rw [hd, if_pos hw]
    · rw [hd, if_neg hcw, if_neg hccw]

/-- Settles O14: the shift written as slices, OR, sum and product, four shifts, and the two equality tests. -/
theorem shiftIsFourTimesPlusCode : Obligations.ShiftIsFourTimesPlusCode :=
  ⟨fun h c => ⟨shiftIn_upper_bits h c, slot_zero_shiftIn h c, shiftIn_eq_or h c, shiftIn_eq_add h c, shiftIn_toNat h c⟩,
    shiftIn_four, fun p h c => by rw [mealyOut_ne_none_iff, classify_ne_none_iff]⟩

end Sys2Proof.Machine
end

section
/-! SUPPORT. The proofs of the statements about the validator (41_gray_code_validator.md): what a match certifies (rule R121), how
the windows divide (rule R125), and where and how often steps are recorded (rules R123, R124). -/

namespace Sys2Proof.Machine

/-! ## The two accepted windows -/

/-- A window is made of four given codes exactly if its slots hold them. -/
theorem eq_windowOf_iff (w : Window) (c3 c2 c1 c0 : Code) :
    w = windowOf c3 c2 c1 c0 ↔ slot w 3 = c3 ∧ slot w 2 = c2 ∧ slot w 1 = c1 ∧ slot w 0 = c0 := by
  constructor
  · rintro rfl
    obtain ⟨h0, h1, h2, h3⟩ := slots_windowOf c3 c2 c1 c0
    exact ⟨h3, h2, h1, h0⟩
  · rintro ⟨rfl, rfl, rfl, rfl⟩
    exact (windowOf_slots w).symm

/-- An admitted pair accepts 0x4B and 0x87 and nothing else. -/
theorem accepted_iff {p : Params} (hp : p.refsWellFormed = true) (w : Window) :
    classify p w ≠ .none ↔ w = 0x4B ∨ w = 0x87 := by
  rw [classify_ne_none_iff]
  obtain ⟨hcw, hccw⟩ | ⟨hcw, hccw⟩ := refsWellFormed_cases hp
  · rw [hcw, hccw, or_comm]
  · rw [hcw, hccw]

/-- The accepted windows, slot by slot: the two canonical paths. -/
theorem accepted_iff_slots {p : Params} (hp : p.refsWellFormed = true) (w : Window) :
    classify p w ≠ .none ↔
      (slot w 3 = 0b01 ∧ slot w 2 = 0b00 ∧ slot w 1 = 0b10 ∧ slot w 0 = 0b11) ∨
      (slot w 3 = 0b10 ∧ slot w 2 = 0b00 ∧ slot w 1 = 0b01 ∧ slot w 0 = 0b11) := by
  have h4B : (0x4B : Window) = windowOf 0b01 0b00 0b10 0b11 := rfl
  have h87 : (0x87 : Window) = windowOf 0b10 0b00 0b01 0b11 := rfl
  rw [accepted_iff hp, h4B, h87, eq_windowOf_iff, eq_windowOf_iff]

/-! ## Gray-valid windows -/

theorem ne_of_oneBitApart {c d : Code} (h : oneBitApart c d = true) : c ≠ d := by
  rintro rfl
  simp [oneBitApart] at h

theorem neighboursDiffer_of_grayValid {w : Window} (h : grayValid w = true) : neighboursDiffer w = true := by
  simp only [grayValid, Bool.and_eq_true] at h
  obtain ⟨⟨h32, h21⟩, h10⟩ := h
  simp [neighboursDiffer, ne_of_oneBitApart h32, ne_of_oneBitApart h21, ne_of_oneBitApart h10]

theorem grayValid_of_accepted {p : Params} (hp : p.refsWellFormed = true) {w : Window} (hw : classify p w ≠ .none) :
    grayValid w = true := by
  obtain rfl | rfl := eq_of_accepted hp hw <;> decide

/-! ## Counting nested classes -/

/-- The elements in the larger of two nested classes are those in the smaller one and the rest. -/
theorem length_filter_of_imp {α : Type} (l : List α) {p q : α → Bool} (h : ∀ x, p x = true → q x = true) :
    (l.filter q).length = (l.filter p).length + (l.filter fun x => q x && !p x).length := by
  have hand : ∀ x, (p x && q x) = p x := fun x => Bool.and_eq_left_iff_imp.2 (h x)
  rw [List.length_eq_length_filter_add (l := l.filter q) p, List.filter_filter, List.filter_filter]
  simp only [hand, Bool.and_comm]

/-! ## Where steps are recorded -/

/-- A sample that records a step is one of the rest code. -/
theorem eq_rest_of_mealyOut {p : Params} (hp : p.refsWellFormed = true) {h : Window} {c : Code}
    (hout : mealyOut p h c ≠ .none) : c = restCode := by
  obtain ⟨_, hacc⟩ := (mealyOut_ne_none_iff p h c).1 hout
  obtain ⟨-, -, -, hnewest, -, -⟩ := slots_of_accepted hp hacc
  rwa [slot_zero_shiftIn] at hnewest

theorem packCode_eq_rest_iff (a b : Bool) : packCode a b = restCode ↔ (a && b) = true := by
  cases a <;> cases b <;> decide

/-- A sample of levels that are not both high leaves the cell. -/
theorem observe_ev_of_not_rest {p : Params} (hp : p.refsWellFormed = true) {a b : Bool} (hab : (a && b) = false)
    (k : Block) : (observe p a b k).ev = k.ev := by
  have hnone : mealyOut p k.hw (packCode a b) = .none := by
    by_contra hout
    simp [(packCode_eq_rest_iff a b).1 (eq_rest_of_mealyOut hp hout)] at hab
  rw [observe_ev, if_pos hnone]

/-! ## How far apart steps are -/

/-- How many of the newest codes lie after the latest rest code among the slots 0 to 2. -/
def slotsSinceRest (h : Window) : Nat :=
  if slot h 0 = restCode then 0 else if slot h 1 = restCode then 1 else if slot h 2 = restCode then 2 else 3

/-- A shift adds at most one slot since rest. -/
theorem slotsSinceRest_shiftIn_le (h : Window) (c : Code) : slotsSinceRest (shiftIn h c) ≤ slotsSinceRest h + 1 := by
  simp only [slotsSinceRest, slot_zero_shiftIn, slot_one_shiftIn, slot_two_shiftIn]
  split_ifs <;> omega

/-- A step is recorded only when the three newest codes are not rest. -/
theorem slotsSinceRest_of_mealyOut {p : Params} (hp : p.refsWellFormed = true) {h : Window} {c : Code}
    (hout : mealyOut p h c ≠ .none) : slotsSinceRest h = 3 := by
  obtain ⟨_, hacc⟩ := (mealyOut_ne_none_iff p h c).1 hout
  obtain ⟨h3, h2, h1, -, -, -⟩ := slots_of_accepted hp hacc
  rw [slot_three_shiftIn] at h3
  rw [slot_two_shiftIn] at h2
  rw [slot_one_shiftIn] at h1
  rw [slotsSinceRest, if_neg h1, if_neg h2, if_neg h3]

/-- After a sample that records a step, slot 0 is rest. -/
theorem slotsSinceRest_mealyNext_of_mealyOut {p : Params} (hp : p.refsWellFormed = true) {h : Window} {c : Code}
    (hout : mealyOut p h c ≠ .none) : slotsSinceRest (mealyNext h c) = 0 := by
  rw [slotsSinceRest, if_pos (by rw [slot_zero_mealyNext, eq_rest_of_mealyOut hp hout])]

/-- Every sample adds to the slots since rest at most what it adds to the quiet shifts. -/
theorem slotsSinceRest_mealyNext_le {p : Params} (hp : p.refsWellFormed = true) (h : Window) (c : Code) :
    slotsSinceRest (mealyNext h c) ≤
      slotsSinceRest h + if c ≠ slot h 0 ∧ mealyOut p h c = .none then 1 else 0 := by
  by_cases hc : c = slot h 0
  · rw [mealyNext, if_pos hc]
    exact Nat.le_add_right _ _
  · by_cases hout : mealyOut p h c = .none
    · rw [mealyNext, if_neg hc, if_pos ⟨hc, hout⟩]
      exact slotsSinceRest_shiftIn_le h c
    · rw [slotsSinceRest_mealyNext_of_mealyOut hp hout]
      exact Nat.zero_le _

/-- Only quiet shifts add to the slots since rest. -/
theorem slotsSinceRest_windowAfter_le {p : Params} (hp : p.refsWellFormed = true) (h : Window) (cs : List Code) :
    slotsSinceRest (windowAfter h cs) ≤ slotsSinceRest h + quietShifts p h cs := by
  induction cs generalizing h with
  | nil => exact Nat.le_add_right _ _
  | cons c cs ih =>
    calc slotsSinceRest (windowAfter (mealyNext h c) cs)
      _ ≤ slotsSinceRest (mealyNext h c) + quietShifts p (mealyNext h c) cs := ih (mealyNext h c)
      _ ≤ slotsSinceRest h + (if c ≠ slot h 0 ∧ mealyOut p h c = .none then 1 else 0) +
            quietShifts p (mealyNext h c) cs := Nat.add_le_add_right (slotsSinceRest_mealyNext_le hp h c) _
      _ = slotsSinceRest h + quietShifts p h (c :: cs) := Nat.add_assoc _ _ _

/-! ## The statements -/

/-- Settles O22: the first step leaves the newest slot at rest, the second needs three slots since rest, and only quiet shifts
add to these. -/
theorem stepsAreFourShiftsApart : Obligations.StepsAreFourShiftsApart := by
  intro p h c cs c' hp hout hout'
  have hle := slotsSinceRest_windowAfter_le hp (mealyNext h c) cs
  rw [slotsSinceRest_of_mealyOut hp hout', slotsSinceRest_mealyNext_of_mealyOut hp hout] at hle
  omega

/-- Settles O20: an accepted window has rest as its newest code. -/
theorem stepsAreRecordedOnlyAtRest : Obligations.StepsAreRecordedOnlyAtRest :=
  ⟨fun _ _ _ hp hout => eq_rest_of_mealyOut hp hout,
    fun _ _ s hab => ⟨_, rfl, observe_ev_of_not_rest (by decide) hab s.block⟩⟩

/-- Settles O18: both canonical paths, looked at slot by slot. -/
theorem matchCertifiesCanonicalPath : Obligations.MatchCertifiesCanonicalPath := by
  intro p w hp
  refine ⟨accepted_iff_slots hp w, fun hw => ?_⟩
  obtain rfl | rfl := eq_of_accepted hp hw <;> decide

/-- Settles O19: accepted, Gray-valid and with all neighbours different are nested classes of 2, 32 and 108 windows. -/
theorem windowsDivideIntoFourClasses : Obligations.WindowsDivideIntoFourClasses := by
  have hgray : ∀ w, classify params w ≠ .none → grayValid w = true := fun w => grayValid_of_accepted (by decide)
  have haccepted : (allWindows.filter (fun w => classify params w != .none)).length = 2 := by decide
  have h32 : (allWindows.filter grayValid).length = 32 := by decide
  have h108 : (allWindows.filter neighboursDiffer).length = 108 := by decide
  have h256 : allWindows.length = 256 := by rw [allWindows, List.length_map, List.length_range]
  have hreachable : (allWindows.filter (fun w => !neighboursDiffer w && windowReachable w)).length = 13 := by decide
  have hin32 := length_filter_of_imp allWindows (p := fun w => classify params w != .none) (q := grayValid)
    (fun w hw => hgray w (by simpa using hw))
  have hin108 := length_filter_of_imp allWindows (fun w => neighboursDiffer_of_grayValid (w := w))
  have hin256 := List.length_eq_length_filter_add (l := allWindows) neighboursDiffer
  simp only [bne, Bool.not_not] at hin32 haccepted
  exact ⟨haccepted, by omega, by omega, by omega, hreachable, hgray, fun _ => neighboursDiffer_of_grayValid⟩

end Sys2Proof.Machine
end

section
/-! SUPPORT. The proofs of the statements about the event buffer (42_event_buffer.md): RECORD_STEP and READ (rules R140, R143 to
R145), and that the cell always holds the last unbroken run of the steps since the last READ (rule R147). -/

namespace Sys2Proof.Machine

/-! ## What READ's answer says about the cell -/

theorem readResult_eq_noEvent_iff (k : Block) : readResult k = .noEvent ↔ k.ev.count = 0 := by
  obtain ⟨-, -, hiff⟩ := emptinessIsTheCountAlone
  exact hiff k

/-- READ answers an event exactly if the cell holds its pair, pending. -/
theorem readResult_eq_event_iff (k : Block) (d : Dir) (n : Count) :
    readResult k = .event d n ↔ k.ev = { dir := d, count := n } ∧ n ≠ 0 := by
  obtain ⟨hempty, _, hread⟩ | ⟨hpending, _, hread⟩ := read_cases k
  · refine iff_of_false (by simp [hread]) ?_
    rintro ⟨hev, hn⟩
    exact hn (by rw [← hempty, hev])
  · rw [hread]
    constructor
    · rintro ⟨⟩
      exact ⟨rfl, hpending⟩
    · rintro ⟨hev, _⟩
      rw [hev]

/-- READ answers first, and the rest of the run starts from the block it leaves. -/
theorem runOps_read_cons (p : Params) (os : List Op) (k : Block) :
    (runOps p (.read :: os) k).2 = readResult k :: (runOps p os (takeEvent k)).2 := rfl

/-! ## The run at the end of a list of steps -/

theorem trailingRun_concat_same (d : Dir) (ds : List Dir) : trailingRun d (ds ++ [d]) = trailingRun d ds + 1 := by
  simp [trailingRun]

theorem trailingRun_concat_of_ne {d e : Dir} (h : e ≠ d) (ds : List Dir) : trailingRun d (ds ++ [e]) = 0 := by
  simp [trailingRun, h]

/-- After one more step rule R147 gives that step's direction and its run, one longer than before. -/
theorem expectedResult_concat (ds : List Dir) (d : Dir) :
    expectedResult (ds ++ [d]) = .event d (BitVec.ofNat 8 (min (trailingRun d ds + 1) 255)) := by
  rw [expectedResult, List.getLast?_concat, ← trailingRun_concat_same]

/-- The number of a non-empty run, clamped, is not 0: READ takes the cell that holds it for a pending one. -/
theorem clamped_succ_ne_zero (n : Nat) : BitVec.ofNat 8 (min (n + 1) 255) ≠ 0 := by bv_omega

/-! ## The cell follows the history -/

/-- A step against the cell's tag overwrites the cell. -/
theorem recordStep_of_dir_ne {d : Dir} {e : StepEvent} (h : e.dir ≠ d) : recordStep d e = { dir := d, count := 1 } := by
  rw [recordStep, if_neg h]

/-- A further step on a cell that answers READ as the steps ds demand makes its direction's run at their end one longer. -/
theorem recordStep_of_readResult {k : Block} {ds : List Dir} (h : readResult k = expectedResult ds) (d : Dir) :
    recordStep d k.ev = { dir := d, count := BitVec.ofNat 8 (min (trailingRun d ds + 1) 255) } := by
  obtain rfl | ⟨ds, e, rfl⟩ := ds.eq_nil_or_concat'
  · exact recordStep_of_count_zero d ((readResult_eq_noEvent_iff k).1 h)
  · rw [expectedResult_concat, readResult_eq_event_iff] at h
    obtain ⟨hev, _⟩ := h
    rw [hev]
    by_cases hed : e = d
    · subst hed
      have hmin : min (min (trailingRun e ds + 1) 255 + 1) 255 = min (trailingRun e ds + 1 + 1) 255 := by omega
      rw [recordStep_same_dir, toNat_ofNat_clamped, hmin, trailingRun_concat_same]
    · rw [recordStep_of_dir_ne hed, trailingRun_concat_of_ne hed]
      rfl

theorem follows_of_count_zero {k : Block} (h : k.ev.count = 0) : k.Follows { hw := k.hw, since := [] } :=
  ⟨rfl, (readResult_eq_noEvent_iff k).2 h⟩

theorem observe_follows (p : Params) (a b : Bool) {k : Block} {g : History} (h : k.Follows g) :
    (observe p a b k).Follows (g.after p (.observe a b)) := by
  obtain ⟨hhw, hread⟩ := h
  have hev := observe_ev p a b k
  rw [hhw] at hev
  refine ⟨by rw [observe_hw, hhw, History.after], ?_⟩
  by_cases hout : mealyOut p g.hw (packCode a b) = .none
  · rw [if_pos hout] at hev
    simp only [History.after, if_pos hout]
    rw [← hread, readResult, hev, readResult]
  · rw [if_neg hout, recordStep_of_readResult hread] at hev
    simp only [History.after, if_neg hout]
    rw [expectedResult_concat, readResult_eq_event_iff]
    exact ⟨hev, clamped_succ_ne_zero _⟩

theorem takeEvent_follows (p : Params) {k : Block} {g : History} (h : k.Follows g) :
    (takeEvent k).Follows (g.after p .read) := by
  obtain ⟨hhw, _⟩ := h
  exact ⟨(takeEvent_hw k).trans hhw, (readResult_eq_noEvent_iff _).2 (takeEvent_count k)⟩

theorem runOp_follows (p : Params) (o : Op) {k : Block} {g : History} (h : k.Follows g) :
    (runOp p o k).1.Follows (g.after p o) := by
  cases o with
  | observe a b => exact observe_follows p a b h
  | read => exact takeEvent_follows p h
  | reset => exact ⟨rfl, rfl⟩

/-! ## Runs from a block that follows a history -/

theorem runOps_follows (p : Params) (ops : List Op) {k : Block} {g : History} (h : k.Follows g) :
    (runOps p ops k).1.Follows (ops.foldl (History.after p) g) := by
  induction ops generalizing k g with
  | nil => exact h
  | cons o os ih => exact ih (runOp_follows p o h)

/-- The READs of a run answer as rule R147 says. -/
theorem runOps_answers_of_follows (p : Params) (ops : List Op) {k : Block} {g : History} (h : k.Follows g) :
    (runOps p ops k).2 = expectedResults p g ops := by
  induction ops generalizing k g with
  | nil => rfl
  | cons o os ih =>
    have hrest := ih (runOp_follows p o h)
    obtain ⟨_, hread⟩ := h
    cases o with
    | observe a b => exact hrest
    | read => rw [runOps_read_cons, expectedResults, hread, ← hrest, runOp]
    | reset => exact hrest

/-- From a block with nothing pending, the READs answer by the window and the operations alone. -/
theorem runOps_answers_of_count_zero (p : Params) (ops : List Op) {k : Block} (h : k.ev.count = 0) :
    (runOps p ops k).2 = expectedResults p { hw := k.hw, since := [] } ops :=
  runOps_answers_of_follows p ops (follows_of_count_zero h)

/-! ## One command -/

/-- An instruction answers what its operations answer. -/
theorem exec_next_observed {i : Instr} {s t : State} (h : exec i s = .next t) :
    t.observed = s.observed ++ (runOps params (opsOf i) s.block).2 := by
  obtain ⟨rfl, rfl⟩ | ⟨rfl, rfl⟩ | ⟨a, b, rfl, rfl⟩ | ⟨rfl, rfl⟩ | ⟨a, b, rfl, rfl⟩ := exec_next_cases h <;>
    exact finish_observed _ _ _

/-- A command holds at most one READ, and holds it before its OBSERVE (decision D7, log entry 8). -/
theorem expectedResults_opsOf (p : Params) (g : History) (i : Instr) :
    expectedResults p g (opsOf i) = if Op.read ∈ opsOf i then [expectedResult g.since] else [] := by
  cases i <;> simp [opsOf, expectedResults]

/-! ## The statements -/

/-- Settles O57: every operation makes the block follow the history's next stage, and a step is its command's operations. -/
theorem everyStepFollowsTheHistory : Obligations.EveryStepFollowsTheHistory := by
  refine ⟨fun s t g hg hstep => ?_, fun p o _ _ hk => runOp_follows p o hk⟩
  have hblock := exec_next_block hstep
  have hobserved := exec_next_observed hstep
  rw [dropCmd_block] at hblock hobserved
  rw [hblock, hobserved, runOps_answers_of_follows params _ hg, expectedResults_opsOf]
  exact ⟨runOps_follows params _ hg, rfl⟩

/-- Settles O37: a block with nothing pending follows the history in which no step has been recorded since the last READ. -/
theorem readReportsTheLastUnbrokenRun : Obligations.ReadReportsTheLastUnbrokenRun :=
  fun p ops _ h => runOps_answers_of_count_zero p ops h

/-- Settles O31: both runs answer what rule R147 computes from the window and the operations, which never looks at the cell. -/
theorem emptyCellTagUnobservable : Obligations.EmptyCellTagUnobservable := by
  refine ⟨fun d _ h => recordStep_of_count_zero d h, fun p ops k j hhw hk hj => ?_⟩
  rw [runOps_answers_of_count_zero p ops hk, runOps_answers_of_count_zero p ops hj, hhw]

/-- Settles O33: the READ leaves the cell empty, and from an empty cell a run that records no step answers NoEvent only. -/
theorem eachRunIsDeliveredOnce : Obligations.EachRunIsDeliveredOnce := by
  intro p ops k hs
  rw [runOps_read_cons]
  exact ⟨rfl, runOps_noEvent_of_no_step (by rwa [takeEvent_hw]) (takeEvent_count k)⟩

/-- Settles O28: another tag is overwritten; for the cell's own tag the count is one clamped sum. -/
theorem recordStepCountsOrOverwrites : Obligations.RecordStepCountsOrOverwrites := by
  refine fun d e => ⟨recordStep_of_dir_ne, ?_⟩
  rintro rfl
  rw [recordStep_same_dir e.dir e.count, toNat_ofNat_clamped]
  exact ⟨rfl, rfl⟩

/-- Settles O32: READ's two cases, the cell empty or pending. -/
theorem readTakesAndClears : Obligations.ReadTakesAndClears := by
  intro s
  refine ⟨_, rfl, rfl, takeEvent_hw s.block, takeEvent_dir s.block, takeEvent_count s.block, ?_⟩
  rw [finish_answers]
  obtain ⟨hempty, _, hread⟩ | ⟨hpending, _, hread⟩ := read_cases s.block
  · rw [hread, if_pos hempty]
  · rw [hread, if_neg hpending]

end Sys2Proof.Machine
end

section
/-! SUPPORT. The proof of the statement about faults and refusals (60_exceptions.md rule R170): none occurs. -/

namespace Sys2Proof.Machine

/-- Every instruction answers a next state: exec_next_cases, read from the instruction's side. -/
theorem exec_total (i : Instr) (s : State) : ∃ t, exec i s = .next t := by
  cases i with
  | reset => exact ⟨s.finish (Block.ofParams params) none, rfl⟩
  | idle => exact ⟨s.finish s.block none, rfl⟩
  | observe a b => exact ⟨s.finish (observe params a b s.block) none, rfl⟩
  | read => exact ⟨s.finish (takeEvent s.block) (some (readResult s.block)), rfl⟩
  | readObserve a b => exact ⟨s.finish (observe params a b (takeEvent s.block)) (some (readResult s.block)), rfl⟩

/-- Settles O10: every instruction is total, and a step runs the instruction its command word decodes to. -/
theorem nothingFaultsOrIsRefused : Obligations.NothingFaultsOrIsRefused :=
  ⟨exec_total, fun s => exec_total (decodeCmd s.nextCmd) s.dropCmd⟩

end Sys2Proof.Machine
end

section
/-! SUPPORT. Further rules for the block's operations: the Mealy machine's two cases, READ's cell, and OBSERVE and READ written as
the block they leave. -/

namespace Sys2Proof.Machine

theorem mealyNext_of_repeated {h : Window} {c : Code} (hc : c = slot h 0) : mealyNext h c = h := by
  rw [mealyNext, if_pos hc]

theorem mealyNext_of_changed {h : Window} {c : Code} (hc : c ≠ slot h 0) : mealyNext h c = shiftIn h c := by
  rw [mealyNext, if_neg hc]

theorem takeEvent_ev (k : Block) : (takeEvent k).ev = { k.ev with count := 0 } := by
  obtain ⟨h0, ht, _⟩ | ⟨_, ht, _⟩ := read_cases k
  · rw [ht, ← h0]
  · rw [ht]

/-- READ's answer is decided on the cell alone. -/
theorem readResult_congr {k j : Block} (h : k.ev = j.ev) : readResult k = readResult j := by
  rw [readResult, readResult, h]

/-- OBSERVE, window and cell at once. -/
theorem observe_eq (p : Params) (a b : Bool) (k : Block) :
    observe p a b k =
      { hw := mealyNext k.hw (packCode a b)
        ev := if mealyOut p k.hw (packCode a b) = .none then k.ev
          else recordStep (mealyOut p k.hw (packCode a b)) k.ev } := by
  rw [← observe_hw p, ← observe_ev]

/-- READ, window and cell at once. -/
theorem takeEvent_eq (k : Block) : takeEvent k = { hw := k.hw, ev := { k.ev with count := 0 } } := by
  rw [← takeEvent_ev, ← takeEvent_hw k]

end Sys2Proof.Machine
end

section
/-! SUPPORT. The proofs of the statements about command words, the bytes that carry them and response words (30_encoding.md rules
R73 to R79), and about a presented command word (log entry 15). -/

namespace Sys2Proof.Machine

/-! ## Command words -/

/-- The decoder reads back every canonical word. -/
theorem decodeCmd_encode (i : Instr) : decodeCmd (encode i) = i := by
  cases i with
  | reset | idle | read => rfl
  | observe a b | readObserve a b => cases a <;> cases b <;> rfl

/-- Encoding what a word decodes to keeps the bits its row reads and clears the others. -/
theorem encode_decodeCmd (w : Cmd) : encode (decodeCmd w) = w &&& careMask w := by revert w; decide

/-- CMD[4] overrides the other request lines. -/
theorem decodeCmd_of_rst {w : Cmd} (h : Cmd.rst w = true) : decodeCmd w = .reset := by rw [decodeCmd, h]

/-- A word without request lines is IDLE, whatever its level lines. -/
theorem decodeCmd_of_no_request {w : Cmd} (h : w &&& 0x1C = 0x00) : decodeCmd w = .idle := by revert w; decide

/-! ## Bytes -/

/-- A byte below 32 carries its low five bits. -/
theorem decodeBytes_setWidth (w : Cmd) (rest : List Byte) :
    decodeBytes (w.setWidth 8 :: rest) = .ok (decodeCmd w, rest) := by
  have hlt : (w.setWidth 8 : Byte).toNat < 32 := by
    rw [BitVec.toNat_setWidth_of_le (by decide)]
    exact w.isLt
  have hback : (w.setWidth 8 : Byte).setWidth 5 = w := by
    rw [BitVec.setWidth_setWidth_of_le _ (by decide), BitVec.setWidth_eq]
  rw [decodeBytes, cmdOfByte, if_pos hlt, hback]

/-- A byte of 32 or more is refused by name. -/
theorem decodeBytes_of_le {b : Byte} (h : 32 ≤ b.toNat) (rest : List Byte) :
    decodeBytes (b :: rest) = .error (.notACommandWord b) := by
  rw [decodeBytes, cmdOfByte, if_neg (Nat.not_lt.2 h)]

/-! ## Words as the opcode table numbers them -/

section
variable {nbits w : Nat} (hw : w < 32) (hbits : 5 ≤ nbits)
include hw hbits

/-- No bit of a number below 32 is cut off by five or more bits. -/
theorem mod_two_pow_of_lt_32 : w % 2 ^ nbits = w := by
  have hpow : 2 ^ 5 ≤ 2 ^ nbits := Nat.pow_le_pow_right (by decide) hbits
  exact Nat.mod_eq_of_lt (by omega)

theorem tableCmd_of_lt_32 : tableCmd nbits w = some (BitVec.ofNat 5 w) := by
  rw [tableCmd, mod_two_pow_of_lt_32 hw hbits, if_pos hw]

theorem decodeTableWord_of_lt_32 : decodeTableWord nbits w = some (decodeCmd (BitVec.ofNat 5 w)) := by
  have hbyte : BitVec.ofNat 8 w = (BitVec.ofNat 5 w).setWidth 8 := by bv_omega
  simp only [decodeTableWord, mod_two_pow_of_lt_32 hw hbits]
  rw [if_pos (by omega), hbyte, decodeBytes_setWidth]

end

/-! ## A step takes one command word -/

theorem step_of_cmds_cons {s : State} {w : Cmd} {ws : List Cmd} (h : s.cmds = w :: ws) :
    step s = exec (decodeCmd w) { s with cmds := ws } := by
  rw [step, State.nextCmd, State.dropCmd, h]
  rfl

/-- With no command waiting a step finds the word of IDLE. -/
theorem step_of_cmds_nil {s : State} (h : s.cmds = []) : step s = exec .idle s := by
  have hdrop : s.dropCmd = s := by rw [State.dropCmd, h, List.tail_nil, ← h]
  rw [step, State.nextCmd, h, hdrop]
  rfl

theorem step_present (w : Cmd) (s : State) : step (s.present w) = exec (decodeCmd w) s := by
  rw [step, present_nextCmd, present_dropCmd]

/-! ## Response words -/

theorem rspValid_event (d : Dir) (n : Count) : rspValid (encodeResult (.event d n)) = true := by
  rw [rspValid, encodeResult, BitVec.getLsbD_append, BitVec.getLsbD_append]
  rfl

theorem rspDir_event (d : Dir) (n : Count) : rspDir (encodeResult (.event d n)) = dirBits d := by
  rw [rspDir, encodeResult, BitVec.extractLsb'_append_eq_of_le (by decide), BitVec.extractLsb'_append_eq_right]

theorem rspCount_event (d : Dir) (n : Count) : rspCount (encodeResult (.event d n)) = n := by
  rw [rspCount, encodeResult, BitVec.extractLsb'_append_eq_right]

/-! ## The statements -/

/-- Settles O5: the decoder is a left inverse of the encoder, and two words decode alike exactly if their decodings encode
alike. -/
theorem decodeAndEncodeAgree : Obligations.DecodeAndEncodeAgree := by
  refine ⟨fun i rest => ?_, encode_decodeCmd, fun w v => ?_⟩
  · rw [encodeByte, decodeBytes_setWidth, decodeCmd_encode]
  · have hinj : Function.Injective encode := Function.LeftInverse.injective decodeCmd_encode
    rw [← encode_decodeCmd, ← encode_decodeCmd, hinj.eq_iff]

/-- Settles O3: all 32 words, row by row. -/
theorem commandTableDecodesEveryWord : Obligations.CommandTableDecodesEveryWord := by
  unfold Obligations.CommandTableDecodesEveryWord
  decide

/-- Settles O4: each of the eleven words is an instruction's canonical one. -/
theorem canonicalWordsDecode : Obligations.CanonicalWordsDecode := by
  unfold Obligations.CanonicalWordsDecode
  decide

/-- Settles O6: the test on the byte's value fails. -/
theorem bytesThatAreNoCommandWordRejected : Obligations.BytesThatAreNoCommandWordRejected :=
  ⟨fun _ rest h => decodeBytes_of_le h rest, rfl⟩

/-- Settles O7: the word is the three fields side by side. -/
theorem responseWordFields : Obligations.ResponseWordFields :=
  ⟨rfl, rfl, fun d n => ⟨rspValid_event d n, rspDir_event d n, rspCount_event d n⟩, rfl, rfl, rfl, rfl, rfl, rfl, rfl, rfl⟩

/-- Settles O8: the port holds a word or none. -/
theorem stepRunsTheDecodedCommand : Obligations.StepRunsTheDecodedCommand :=
  ⟨fun _ _ _ h => step_of_cmds_cons h, fun _ h => step_of_cmds_nil h⟩

/-- Settles O9: five bits are enough for the word, and presenting puts it first. -/
theorem presentedWordRunsNext : Obligations.PresentedWordRunsNext := by
  refine fun s nbits w hw hbits => ⟨decodeTableWord_of_lt_32 hw hbits, ?_⟩
  rw [State.withFetchWord, tableCmd_of_lt_32 hw hbits]
  exact step_present _ s

end Sys2Proof.Machine
end

section
/-! SUPPORT. The proofs of the statements about windows that differ in their fillers only (10_state.md rule R36, decision D3). -/

namespace Sys2Proof.Machine

/-! ## The relation, slot by slot -/

/-- The newest j codes are the same; above them stand only 11 in the one window and only 00 in the other. -/
abbrev SameBelow (j : Nat) (h h' : Window) : Prop :=
  ∀ i < 4, if i < j then slot h i = slot h' i else slot h i = 0b11 ∧ slot h' i = 0b00

theorem sameButFiller_iff (h h' : Window) : sameButFiller h h' = true ↔ ∃ j < 5, SameBelow j h h' := by
  simp only [sameButFiller, List.any_eq_true, List.all_eq_true, List.mem_range, SameBelow]
  refine exists_congr fun j => and_congr_right fun _ => forall₂_congr fun i _ => ?_
  split <;> simp

/-- Slots that hold the same code. -/
theorem SameBelow.eq_slot {j i : Nat} {h h' : Window} (hs : SameBelow j h h') (hi : i < j) (hi4 : i < 4) :
    slot h i = slot h' i := by simpa [hi] using hs i hi4

/-- Slots that hold the fillers. -/
theorem SameBelow.filler {j i : Nat} {h h' : Window} (hs : SameBelow j h h') (hi : j ≤ i) (hi4 : i < 4) :
    slot h i = 0b11 ∧ slot h' i = 0b00 := by simpa [Nat.not_lt.2 hi] using hs i hi4

/-- Each slot above slot 0 holds what the slot below it held before the shift. -/
theorem slot_succ_shiftIn (h : Window) (c : Code) {i : Nat} (hi : i < 3) : slot (shiftIn h c) (i + 1) = slot h i := by
  interval_cases i
  · exact slot_one_shiftIn h c
  · exact slot_two_shiftIn h c
  · exact slot_three_shiftIn h c

/-- A shift puts one more equal code below the fillers. -/
theorem SameBelow.after_shiftIn {j : Nat} {h h' : Window} (hs : SameBelow j h h') (c : Code) :
    SameBelow (j + 1) (shiftIn h c) (shiftIn h' c) := by
  rintro (_ | i) hi
  · rw [if_pos (Nat.succ_pos j), slot_zero_shiftIn, slot_zero_shiftIn]
  · have hi3 : i < 3 := by omega
    simpa [slot_succ_shiftIn _ _ hi3] using hs i (by omega)

theorem sameButFiller_shiftIn {h h' : Window} (hs : sameButFiller h h' = true) (c : Code) :
    sameButFiller (shiftIn h c) (shiftIn h' c) = true := by
  obtain ⟨j, hj, hs⟩ := (sameButFiller_iff h h').1 hs
  refine (sameButFiller_iff _ _).2 ⟨min (j + 1) 4, by omega, fun i hi => ?_⟩
  simpa [hi] using hs.after_shiftIn c i hi

/-- The two admitted reset windows (decision D3): all filler. -/
theorem sameButFiller_resetWindows : sameButFiller 0xFF 0x00 = true := by decide

/-! ## One sample -/

/-- Onto a window of four equal codes the same code is shifted without effect, as if it were repeated. -/
theorem mealyNext_of_slots_eq {h : Window} {d : Code} (hd : ∀ i < 4, slot h i = d) (c : Code) :
    mealyNext h c = shiftIn h c := by
  by_cases hc : c = slot h 0
  · calc mealyNext h c
      _ = windowOf (slot h 3) (slot h 2) (slot h 1) (slot h 0) := by rw [mealyNext_of_repeated hc, windowOf_slots]
      _ = windowOf (slot h 2) (slot h 1) (slot h 0) c := by rw [hc, hd 3, hd 2, hd 1, hd 0] <;> decide
      _ = shiftIn h c := (shiftIn_eq_windowOf h c).symm
  · exact mealyNext_of_changed hc

/-- Either both windows repeat a sample's code or neither does, or both are shifted. -/
theorem sameButFiller_mealyNext {h h' : Window} (hs : sameButFiller h h' = true) (c : Code) :
    sameButFiller (mealyNext h c) (mealyNext h' c) = true := by
  obtain ⟨j, _, hbelow⟩ := (sameButFiller_iff h h').1 hs
  obtain rfl | hj := Nat.eq_zero_or_pos j
  · rw [mealyNext_of_slots_eq fun i hi => (hbelow.filler (Nat.zero_le i) hi).1,
      mealyNext_of_slots_eq fun i hi => (hbelow.filler (Nat.zero_le i) hi).2]
    exact sameButFiller_shiftIn hs c
  · rw [mealyNext, mealyNext, ← hbelow.eq_slot hj (by decide)]
    split
    · exact hs
    · exact sameButFiller_shiftIn hs c

/-- What the decoder puts out depends on the three newest slots. -/
theorem mealyOut_congr (p : Params) {h h' : Window} (h0 : slot h 0 = slot h' 0) (h1 : slot h 1 = slot h' 1)
    (h2 : slot h 2 = slot h' 2) (c : Code) : mealyOut p h c = mealyOut p h' c := by
  rw [mealyOut, mealyOut, shiftIn_eq_windowOf, shiftIn_eq_windowOf, h0, h1, h2]

/-- A step needs 01 or 10 in slot 2, so with a filler there no sample records one. -/
theorem mealyOut_of_slot_two_filler {p : Params} (hp : p.refsWellFormed = true) {h : Window}
    (h2 : slot h 2 = 0b11 ∨ slot h 2 = 0b00) (c : Code) : mealyOut p h c = .none := by
  by_contra hout
  obtain ⟨_, hacc⟩ := (mealyOut_ne_none_iff p h c).1 hout
  rw [accepted_iff_slots hp, slot_three_shiftIn] at hacc
  obtain h2 | h2 := h2 <;> simp [h2] at hacc

theorem mealyOut_of_sameButFiller {p : Params} (hp : p.refsWellFormed = true) {h h' : Window}
    (hs : sameButFiller h h' = true) (c : Code) : mealyOut p h c = mealyOut p h' c := by
  obtain ⟨j, _, hbelow⟩ := (sameButFiller_iff h h').1 hs
  obtain hj | hj : j ≤ 2 ∨ 3 ≤ j := by omega
  · obtain ⟨h2, h2'⟩ := hbelow.filler hj (by decide)
    rw [mealyOut_of_slot_two_filler hp (.inl h2), mealyOut_of_slot_two_filler hp (.inr h2')]
  · exact mealyOut_congr p (hbelow.eq_slot (by omega) (by decide)) (hbelow.eq_slot (by omega) (by decide))
      (hbelow.eq_slot (by omega) (by decide)) c

/-! ## One operation -/

/-- An operation, on the one side with the reset window 0xFF and on the other with 0x00. -/
theorem runOp_of_sameButFiller {p : Params} (hp : p.refsWellFormed = true) (o : Op) {k j : Block}
    (hs : sameButFiller k.hw j.hw = true) (hev : k.ev = j.ev) :
    (runOp { p with hwReset := 0xFF } o k).2 = (runOp { p with hwReset := 0x00 } o j).2 ∧
      (runOp { p with hwReset := 0xFF } o k).1.ev = (runOp { p with hwReset := 0x00 } o j).1.ev ∧
      sameButFiller (runOp { p with hwReset := 0xFF } o k).1.hw (runOp { p with hwReset := 0x00 } o j).1.hw = true := by
  cases o with
  | observe a b =>
    have hout : mealyOut { p with hwReset := 0xFF } k.hw (packCode a b) =
        mealyOut { p with hwReset := 0x00 } j.hw (packCode a b) := mealyOut_of_sameButFiller hp hs _
    refine ⟨rfl, ?_, ?_⟩
    · simp only [runOp, observe_ev, hout, hev]
    · simp only [runOp, observe_hw]
      exact sameButFiller_mealyNext hs _
  | read =>
    refine ⟨?_, ?_, ?_⟩
    · simp only [runOp, readResult_congr hev]
    · simp only [runOp, takeEvent_ev, hev]
    · simpa only [runOp, takeEvent_hw] using hs
  | reset => exact ⟨rfl, rfl, sameButFiller_resetWindows⟩

/-! ## Runs -/

theorem outputs_of_sameButFiller {p : Params} (hp : p.refsWellFormed = true) (cs : List Code) {h h' : Window}
    (hs : sameButFiller h h' = true) : outputs p h cs = outputs p h' cs := by
  induction cs generalizing h h' with
  | nil => rfl
  | cons c cs ih => rw [outputs, outputs, mealyOut_of_sameButFiller hp hs, ih (sameButFiller_mealyNext hs c)]

theorem runOps_answers_of_sameButFiller {p : Params} (hp : p.refsWellFormed = true) (ops : List Op) {k j : Block}
    (hs : sameButFiller k.hw j.hw = true) (hev : k.ev = j.ev) :
    (runOps { p with hwReset := 0xFF } ops k).2 = (runOps { p with hwReset := 0x00 } ops j).2 := by
  induction ops generalizing k j with
  | nil => rfl
  | cons o os ih =>
    obtain ⟨hanswer, hev', hs'⟩ := runOp_of_sameButFiller hp o hs hev
    rw [runOps, runOps, hanswer, ih hs' hev']

/-! ## The statements -/

/-- Settles O56: with a filler in slot 2 neither window records a step, and without one the windows agree where the decoder
looks. -/
theorem everyOperationKeepsWindowsSameButFiller : Obligations.EveryOperationKeepsWindowsSameButFiller :=
  fun _ hp => ⟨fun _ _ c hs => ⟨mealyOut_of_sameButFiller hp hs c, sameButFiller_mealyNext hs c⟩,
    fun o _ _ hs hev => runOp_of_sameButFiller hp o hs hev⟩

/-- Settles O25: the two reset windows are all filler, and the relation is kept along every run; each of the three other windows
has the first codes of a canonical path in its newest slots, and the rest of the path completes it. -/
theorem resetWindowChoiceUnobservable : Obligations.ResetWindowChoiceUnobservable := by
  refine ⟨fun cs => outputs_of_sameButFiller (by decide) cs sameButFiller_resetWindows,
    fun ops => runOps_answers_of_sameButFiller (by decide) ops sameButFiller_resetWindows rfl, ?_⟩
  have h01 : mealyOut params (windowAfter 0x01 [0b00, 0b10]) 0b11 ≠ .none := by decide
  have h12 : mealyOut params 0x12 0b11 ≠ .none := by decide
  have hD2 : mealyOut params 0xD2 0b11 ≠ .none := by decide
  simp only [List.forall_mem_cons]
  exact ⟨⟨[0b00, 0b10, 0b11], by decide, _, by simp [outputs, windowAfter], h01⟩,
    ⟨[0b11], by decide, _, by simp [outputs], h12⟩, ⟨[0b11], by decide, _, by simp [outputs], hD2⟩, by simp⟩

end Sys2Proof.Machine
end

section
/-! SUPPORT. The proofs of the statements about the windows that samples lead to (10_state.md rule R37, 40_decoder_fsm.md rules
R104, R105), which of them complete a step, and bounces (95_test_vectors.md property S6). -/

namespace Sys2Proof.Machine

/-! ## The exact inputs of a step -/

/-- Among all windows this hardware's two references alone are accepted (decision D2). -/
theorem classify_params_iff (w : Window) :
    (classify params w = .ccw ↔ w = 0x87) ∧ (classify params w = .cw ↔ w = 0x4B) ∧
      (classify params w = .none ↔ w ≠ 0x87 ∧ w ≠ 0x4B) := by
  obtain ⟨hw, hd⟩ | ⟨hccw, hw, hd⟩ | ⟨hccw, hcw, hd⟩ := classify_cases params w
  · obtain rfl : w = 0x87 := hw
    decide
  · obtain rfl : w = 0x4B := hw
    decide
  · rw [hd]
    exact ⟨iff_of_false (by decide) hccw, iff_of_false (by decide) hcw, iff_of_true rfl ⟨hccw, hcw⟩⟩

/-- The shift of a repeated code gives a window with two equal newest codes, which is not accepted, so the decoder's output is
the class of the shifted window whether it shifts or not. -/
theorem mealyOut_eq_classify {p : Params} (hp : p.refsWellFormed = true) (h : Window) (c : Code) :
    mealyOut p h c = classify p (shiftIn h c) := by
  by_cases hc : c = slot h 0
  · have hnone : classify p (shiftIn h c) = .none := by
      by_contra hacc
      obtain ⟨-, -, h1, h0, -, -⟩ := slots_of_accepted hp hacc
      rw [slot_one_shiftIn, ← hc] at h1
      rw [slot_zero_shiftIn] at h0
      exact h1 h0
    rw [mealyOut, if_pos hc, hnone]
  · rw [mealyOut, if_neg hc]

/-- A rest sample after the six bits x leads to the window x ++ 11. -/
theorem shiftIn_rest_eq_iff (h : Window) (x : BitVec 6) :
    shiftIn h 0b11 = x ++ (0b11 : Code) ↔ h.extractLsb' 0 6 = x := by
  rw [shiftIn_eq_append, BitVec.append_left_inj]

/-! ## The window as the last four deduplicated codes -/

/-- The four codes of a window, oldest first. -/
def windowCodes (h : Window) : List Code := [slot h 3, slot h 2, slot h 1, slot h 0]

theorem windowCodes_shiftIn (h : Window) (c : Code) :
    windowCodes (shiftIn h c) = [slot h 2, slot h 1, slot h 0, c] := by
  rw [windowCodes, slot_three_shiftIn, slot_two_shiftIn, slot_one_shiftIn, slot_zero_shiftIn]

theorem eq_windowOf_iff_windowCodes (w : Window) (c3 c2 c1 c0 : Code) :
    w = windowOf c3 c2 c1 c0 ↔ windowCodes w = [c3, c2, c1, c0] := by
  simp [eq_windowOf_iff, windowCodes]

theorem windowAfter_nil (h : Window) : windowAfter h [] = h := rfl

theorem windowAfter_cons (h : Window) (c : Code) (cs : List Code) :
    windowAfter h (c :: cs) = windowAfter (mealyNext h c) cs := rfl

/-- The window holds the last codes of those it held at first and the deduplicated samples since. -/
theorem windowCodes_windowAfter (h : Window) (cs : List Code) :
    windowCodes (windowAfter h cs) <:+ windowCodes h ++ dedupAfter (slot h 0) cs := by
  induction cs generalizing h with
  | nil => simp [windowAfter, dedupAfter]
  | cons c cs ih =>
    have ih := ih (mealyNext h c)
    rw [slot_zero_mealyNext] at ih
    rw [windowAfter_cons, dedupAfter]
    by_cases hc : c = slot h 0
    · rw [mealyNext_of_repeated hc] at ih ⊢
      rwa [if_pos hc, ← hc]
    · rw [mealyNext_of_changed hc] at ih ⊢
      rw [windowCodes_shiftIn] at ih
      rw [if_neg hc]
      exact ih.trans (List.suffix_cons (slot h 3) _)

/-- The last four of a list of codes as a window. -/
theorem lastFourWindow_of_suffix {w : Window} {l : List Code} (h : windowCodes w <:+ l) : lastFourWindow l = w := by
  obtain ⟨older, rfl⟩ := h
  simpa [lastFourWindow, windowCodes] using windowOf_slots w

/-- Two suffixes of four codes are the same. -/
theorem windowCodes_eq_iff_suffix {w : Window} {l path : List Code} (h : windowCodes w <:+ l) (hpath : path.length = 4) :
    windowCodes w = path ↔ path <:+ l := by
  rw [List.suffix_iff_eq_drop] at h ⊢
  rw [hpath, h, eq_comm]
  rfl

theorem suffix_cons_of_head_ne {a b : Code} (h : a ≠ b) (l l' : List Code) : a :: l <:+ b :: l' ↔ a :: l <:+ l' := by
  rw [List.suffix_cons_iff, or_iff_right]
  exact fun heq => h (List.head_eq_of_cons_eq heq)

/-- Samples from 0xFF lead to a window whose oldest code is not the filler exactly if its codes are the last deduplicated
samples. -/
theorem windowAfter_eq_windowOf_iff (cs : List Code) {c3 c2 c1 c0 : Code} (h3 : c3 ≠ 0b11) :
    windowAfter 0xFF cs = windowOf c3 c2 c1 c0 ↔ [c3, c2, c1, c0] <:+ 0b11 :: dedupAfter 0b11 cs := by
  have hcodes : windowCodes (windowAfter 0xFF cs) <:+ 0b11 :: 0b11 :: 0b11 :: 0b11 :: dedupAfter 0b11 cs :=
    windowCodes_windowAfter 0xFF cs
  rw [eq_windowOf_iff_windowCodes, windowCodes_eq_iff_suffix hcodes rfl]
  simp only [suffix_cons_of_head_ne h3]

/-! ## The sample that completes a step -/

/-- One more sample is appended unless it repeats the newest code. -/
theorem dedupAfter_concat (h : Window) (cs : List Code) (c : Code) :
    dedupAfter (slot h 0) (cs ++ [c]) =
      dedupAfter (slot h 0) cs ++ if c = slot (windowAfter h cs) 0 then [] else [c] := by
  induction cs generalizing h with
  | nil => rfl
  | cons d cs ih =>
    have ih := ih (mealyNext h d)
    rw [slot_zero_mealyNext] at ih
    rw [List.cons_append, dedupAfter, dedupAfter, windowAfter_cons]
    by_cases hd : d = slot h 0
    · rw [if_pos hd, if_pos hd, ← hd, ih]
    · rw [if_neg hd, if_neg hd, ih, List.cons_append]

theorem dedupAfter_concat_ne_iff (h : Window) (cs : List Code) (c : Code) :
    slot h 0 :: dedupAfter (slot h 0) (cs ++ [c]) ≠ slot h 0 :: dedupAfter (slot h 0) cs ↔
      c ≠ slot (windowAfter h cs) 0 := by
  rw [dedupAfter_concat]
  simp

theorem windowAfter_concat (h : Window) (cs : List Code) (c : Code) :
    windowAfter h (cs ++ [c]) = mealyNext (windowAfter h cs) c := by
  simp [windowAfter]

/-- After any samples slot 0 holds the last of them. -/
theorem slot_zero_windowAfter_concat (h : Window) (cs : List Code) (c : Code) :
    slot (windowAfter h (cs ++ [c])) 0 = c := by
  rw [windowAfter_concat, slot_zero_mealyNext]

/-- If d is the class of one window alone, a sample puts it out exactly if it shifts and leads to that window. -/
theorem mealyOut_eq_iff {p : Params} {d : Dir} (hd : d ≠ .none) {ref : Window} (href : ∀ w, classify p w = d ↔ w = ref)
    (h : Window) (c : Code) : mealyOut p h c = d ↔ c ≠ slot h 0 ∧ mealyNext h c = ref := by
  by_cases hc : c = slot h 0
  · simp [mealyOut, hc, hd.symm]
  · simp [mealyOut, mealyNext, hc, href]

/-- The same in terms of the deduplicated samples since reset, for a reference that does not begin with the filler. -/
theorem mealyOut_windowAfter_iff {d : Dir} (hd : d ≠ .none) {c3 c2 c1 c0 : Code} (h3 : c3 ≠ 0b11)
    (href : ∀ w, classify params w = d ↔ w = windowOf c3 c2 c1 c0) (cs : List Code) (c : Code) :
    mealyOut params (windowAfter 0xFF cs) c = d ↔
      0b11 :: dedupAfter 0b11 (cs ++ [c]) ≠ 0b11 :: dedupAfter 0b11 cs ∧
      [c3, c2, c1, c0] <:+ 0b11 :: dedupAfter 0b11 (cs ++ [c]) := by
  rw [mealyOut_eq_iff hd href, ← windowAfter_concat, windowAfter_eq_windowOf_iff _ h3]
  exact and_congr_left' (dedupAfter_concat_ne_iff 0xFF cs c).symm

theorem mealyOut_cw_iff (cs : List Code) (c : Code) :
    mealyOut params (windowAfter 0xFF cs) c = .cw ↔
      0b11 :: dedupAfter 0b11 (cs ++ [c]) ≠ 0b11 :: dedupAfter 0b11 cs ∧
      [0b01, 0b00, 0b10, 0b11] <:+ 0b11 :: dedupAfter 0b11 (cs ++ [c]) := by
  refine mealyOut_windowAfter_iff (by decide) (by decide) (fun w => ?_) cs c
  obtain ⟨-, hcw, -⟩ := classify_params_iff w
  exact hcw

theorem mealyOut_ccw_iff (cs : List Code) (c : Code) :
    mealyOut params (windowAfter 0xFF cs) c = .ccw ↔
      0b11 :: dedupAfter 0b11 (cs ++ [c]) ≠ 0b11 :: dedupAfter 0b11 cs ∧
      [0b10, 0b00, 0b01, 0b11] <:+ 0b11 :: dedupAfter 0b11 (cs ++ [c]) := by
  refine mealyOut_windowAfter_iff (by decide) (by decide) (fun w => ?_) cs c
  obtain ⟨hccw, -, -⟩ := classify_params_iff w
  exact hccw

/-- A path that begins with another code than the filler is four samples long. -/
theorem four_le_length_of_suffix {cs : List Code} {c3 c2 c1 c0 : Code} (h3 : c3 ≠ 0b11)
    (h : [c3, c2, c1, c0] <:+ 0b11 :: cs) : 4 ≤ cs.length :=
  ((suffix_cons_of_head_ne h3 _ _).1 h).length_le

/-! ## The reachable windows -/

/-- Every sample leads from one of the 121 windows to one of them. -/
theorem windowReachable_mealyNext {h : Window} (hr : windowReachable h = true) (c : Code) :
    windowReachable (mealyNext h c) = true := by
  by_cases hc : c = slot h 0
  · rwa [mealyNext_of_repeated hc]
  · rw [mealyNext_of_changed hc]
    simp only [windowReachable, slot_zero_shiftIn, slot_one_shiftIn, slot_two_shiftIn, slot_three_shiftIn,
      Bool.or_eq_true, Bool.and_eq_true, beq_iff_eq, bne_iff_ne] at hr ⊢
    obtain (⟨⟨-, h2⟩, h1⟩ | ⟨⟨⟨-, h2⟩, h1⟩, h01⟩) | ⟨⟨-, h21⟩, h10⟩ := hr
    · by_cases h0 : slot h 0 = 0b11
      · exact .inl (.inl ⟨⟨h2, h1⟩, h0⟩)
      · exact .inl (.inr ⟨⟨⟨h2, h1⟩, h0⟩, hc⟩)
    · exact .inr ⟨⟨h2 ▸ h1.symm, h01.symm⟩, Ne.symm hc⟩
    · exact .inr ⟨⟨h21, h10⟩, Ne.symm hc⟩

theorem windowReachable_windowAfter {h : Window} (hr : windowReachable h = true) (cs : List Code) :
    windowReachable (windowAfter h cs) = true := by
  induction cs generalizing h with
  | nil => exact hr
  | cons c cs ih => exact ih (windowReachable_mealyNext hr c)

/-- A window of the spec's description is reached by its own codes. -/
theorem windowAfter_windowCodes {w : Window} (hr : windowReachable w = true) : windowAfter 0xFF (windowCodes w) = w := by
  revert w
  decide

theorem windowReachable_of_neighboursDiffer {w : Window} (h : neighboursDiffer w = true) : windowReachable w = true := by
  simp only [windowReachable]
  rw [show (slot w 3 != slot w 2 && slot w 2 != slot w 1 && slot w 1 != slot w 0) = true from h, Bool.or_true]

/-- Of the 256 windows 108 have all neighbours different and are reachable, and of the other 148 are 13. -/
theorem length_filter_windowReachable : (allWindows.filter windowReachable).length = 121 := by
  obtain ⟨-, -, -, h148, h13, -, -⟩ := windowsDivideIntoFourClasses
  have h256 : allWindows.length = 256 := by rw [allWindows, List.length_map, List.length_range]
  have hsplit := List.length_eq_length_filter_add (l := allWindows) neighboursDiffer
  have hnested := length_filter_of_imp allWindows fun w => windowReachable_of_neighboursDiffer (w := w)
  simp only [Bool.and_comm] at hnested h13
  omega

/-! ## Runs of samples that record nothing -/

/-- Samples on each of which the decoder puts out DIR_NONE leave the cell. -/
theorem runOps_ev_of_no_output {p : Params} {cs : List Code} {k : Block} (h : ∀ d ∈ outputs p k.hw cs, d = .none) :
    (runOps p (cs.map Op.observeCode) k).1.ev = k.ev := by
  induction cs generalizing k with
  | nil => rfl
  | cons c cs ih =>
    obtain ⟨hfirst, hrest⟩ := List.forall_mem_cons.1 h
    rw [List.map_cons, Op.observeCode, runOps_observe_cons, ih (by rwa [observe_hw, packCode_code]), observe_ev,
      packCode_code, if_pos hfirst]

theorem slot_three_ne_slot_one_of_accepted {p : Params} (hp : p.refsWellFormed = true) {w : Window}
    (hw : classify p w ≠ .none) : slot w 3 ≠ slot w 1 := by
  obtain rfl | rfl := eq_of_accepted hp hw <;> decide

theorem quietShifts_le_length (p : Params) (h : Window) (cs : List Code) : quietShifts p h cs ≤ cs.length := by
  induction cs generalizing h with
  | nil => exact Nat.le_refl 0
  | cons c cs ih =>
    have hrest := ih (mealyNext h c)
    rw [quietShifts, List.length_cons]
    split <;> omega

section
variable {p : Params} (hp : p.refsWellFormed = true) {h : Window} (hrest : slot h 0 = restCode)
include hp hrest

/-- From rest the first three samples record nothing. -/
theorem mealyOut_of_few_samples {cs : List Code} (hcs : cs.length < 3) (c : Code) :
    mealyOut p (windowAfter h cs) c = .none := by
  by_contra hout
  have hthree := slotsSinceRest_of_mealyOut hp hout
  have hle := slotsSinceRest_windowAfter_le hp h cs
  have hquiet := quietShifts_le_length p h cs
  have hzero : slotsSinceRest h = 0 := by rw [slotsSinceRest, if_pos hrest]
  omega

/-- From rest a code, another one and the first again are no three codes of a canonical path: its first and third differ. -/
theorem mealyOut_after_retraced_code (x y c : Code) : mealyOut p (windowAfter h [x, y, x]) c = .none := by
  by_contra hout
  obtain ⟨_, hacc⟩ := (mealyOut_ne_none_iff p _ c).1 hout
  have hfirstThird := slot_three_ne_slot_one_of_accepted hp hacc
  obtain ⟨-, h2, h1, -, -, -⟩ := slots_of_accepted hp hacc
  rw [slot_one_shiftIn] at h1 hfirstThird
  rw [slot_two_shiftIn] at h2
  rw [slot_three_shiftIn] at hfirstThird
  have hx : x ≠ slot h 0 := by rwa [hrest, ← slot_zero_windowAfter_concat h [x, y] x]
  rw [windowAfter_cons, mealyNext_of_changed hx] at h2 hfirstThird
  by_cases hy : y = x
  · have hw : windowAfter (shiftIn h x) [y, x] = shiftIn h x := by
      rw [hy, windowAfter_cons, mealyNext_of_repeated (slot_zero_shiftIn h x).symm, windowAfter_cons,
        mealyNext_of_repeated (slot_zero_shiftIn h x).symm, windowAfter_nil]
    rw [hw, slot_one_shiftIn] at h2
    exact h2 hrest
  · have hw : windowAfter (shiftIn h x) [y, x] = shiftIn (shiftIn (shiftIn h x) y) x := by
      rw [windowAfter_cons, mealyNext_of_changed (by rwa [slot_zero_shiftIn]), windowAfter_cons,
        mealyNext_of_changed (by rw [slot_zero_shiftIn]; exact Ne.symm hy), windowAfter_nil]
    rw [hw, slot_two_shiftIn, slot_one_shiftIn, slot_zero_shiftIn, slot_zero_shiftIn] at hfirstThird
    exact hfirstThird rfl

theorem outputs_of_bounce (x y : Code) :
    (∀ d ∈ outputs p h [x, restCode], d = .none) ∧ (∀ d ∈ outputs p h [x, y, restCode], d = .none) ∧
      ∀ d ∈ outputs p h [x, y, x, restCode], d = .none := by
  have hfirst : ∀ c, mealyOut p h c = .none := mealyOut_of_few_samples hp hrest (cs := []) (by decide)
  have hsecond : ∀ c, mealyOut p (mealyNext h x) c = .none :=
    mealyOut_of_few_samples hp hrest (cs := [x]) (by simp)
  have hthird : ∀ c, mealyOut p (mealyNext (mealyNext h x) y) c = .none :=
    mealyOut_of_few_samples hp hrest (cs := [x, y]) (by simp)
  have hfourth := mealyOut_after_retraced_code hp hrest x y restCode
  simp only [windowAfter, List.foldl_cons, List.foldl_nil] at hfourth
  simp [outputs, hfirst, hsecond, hthird, hfourth]

end

/-! ## The statements -/

/-- Settles O17: the window equals one of the two references or neither. -/
theorem classifyAcceptsTwoWindows : Obligations.ClassifyAcceptsTwoWindows := classify_params_iff

/-- Settles O21: the reference is the six bits before the rest sample and the sample. -/
theorem decoderOutputsExactly : Obligations.DecoderOutputsExactly := by
  intro h
  have hout := mealyOut_eq_classify (p := params) (by decide) h 0b11
  obtain ⟨hccw, hcw, -⟩ := classify_params_iff (shiftIn h 0b11)
  refine ⟨?_, ?_, fun c hc => ?_⟩
  · rw [hout, hcw]
    exact shiftIn_rest_eq_iff h 0b010010
  · rw [hout, hccw]
    exact shiftIn_rest_eq_iff h 0b100001
  · by_contra hstep
    exact hc (eq_rest_of_mealyOut (by decide) hstep)

/-- Settles O23: the window's codes are a suffix of the fillers and the deduplicated samples, and both references begin with
another code than the filler. -/
theorem windowIsLastFourDedupedCodes : Obligations.WindowIsLastFourDedupedCodes := by
  refine ⟨fun cs => (lastFourWindow_of_suffix (windowCodes_windowAfter 0xFF cs)).symm,
    fun cs c => ⟨mealyOut_cw_iff cs c, mealyOut_ccw_iff cs c, fun hout => ?_⟩⟩
  cases hd : mealyOut params (windowAfter 0xFF cs) c with
  | none => exact absurd hd hout
  | cw =>
    obtain ⟨-, hpath⟩ := (mealyOut_cw_iff cs c).1 hd
    exact four_le_length_of_suffix (by decide) hpath
  | ccw =>
    obtain ⟨-, hpath⟩ := (mealyOut_ccw_iff cs c).1 hd
    exact four_le_length_of_suffix (by decide) hpath

/-- Settles O24: samples stay within the 121 windows, and each of them is reached by its own codes. -/
theorem reachableWindowsAre121 : Obligations.ReachableWindowsAre121 := by
  refine ⟨fun w => ⟨fun hr => ⟨windowCodes w, windowAfter_windowCodes hr⟩, ?_⟩, length_filter_windowReachable⟩
  rintro ⟨cs, rfl⟩
  exact windowReachable_windowAfter (by decide) cs

/-- Settles O27: no sample of a bounce completes a canonical path. -/
theorem bounceRecordsNothing : Obligations.BounceRecordsNothing := by
  intro p k x y hp hrest
  obtain ⟨hone, htwo, hretraced⟩ := outputs_of_bounce hp hrest x y
  exact ⟨runOps_ev_of_no_output hone, runOps_ev_of_no_output htwo, runOps_ev_of_no_output hretraced⟩

end Sys2Proof.Machine
end

section
/-! SUPPORT. The proofs of the statements about single instructions (their operations, frames and invariant) and about runs of the
port (70_reset_and_hazards.md rules R200, R211, R212; 10_state.md sections 2, 3 and 6). -/

namespace Sys2Proof.Machine

/-! ## What an instruction does to the port -/

/-- An instruction leaves the waiting commands and gives one answer, READ's result of the old block if it holds a READ. -/
theorem exec_next_port {i : Instr} {s t : State} (h : exec i s = .next t) :
    t.cmds = s.cmds ∧ t.answers = s.answers ++ [if Op.read ∈ opsOf i then some (readResult s.block) else none] := by
  obtain ⟨rfl, rfl⟩ | ⟨rfl, rfl⟩ | ⟨a, b, rfl, rfl⟩ | ⟨rfl, rfl⟩ | ⟨a, b, rfl, rfl⟩ := exec_next_cases h <;>
    simp [opsOf]

/-- An instruction gives one response word. -/
theorem exec_next_responses {i : Instr} {s t : State} (h : exec i s = .next t) :
    t.responses = s.responses ++ [answerWord (if Op.read ∈ opsOf i then some (readResult s.block) else none)] := by
  obtain ⟨-, hanswers⟩ := exec_next_port h
  rw [State.responses, hanswers, List.map_append, State.responses]
  rfl

/-! ## Frames of the window and of the cell -/

/-- The window changes only by the shift of a changed code, after which the two newest slots differ. -/
theorem mealyNext_of_ne {h : Window} {c : Code} (hne : mealyNext h c ≠ h) :
    c ≠ slot h 0 ∧ mealyNext h c = shiftIn h c ∧ slot (mealyNext h c) 0 ≠ slot (mealyNext h c) 1 := by
  have hc : c ≠ slot h 0 := fun hc => hne (mealyNext_of_repeated hc)
  refine ⟨hc, mealyNext_of_changed hc, ?_⟩
  rwa [mealyNext_of_changed hc, slot_zero_shiftIn, slot_one_shiftIn]

/-- The cell changes by READ only if its count was not 0. -/
theorem count_ne_zero_of_takeEvent_ev_ne {k : Block} (h : (takeEvent k).ev ≠ k.ev) : k.ev.count ≠ 0 := by
  obtain ⟨_, hk, _⟩ | ⟨hpending, _, _⟩ := read_cases k
  · exact absurd (congrArg Block.ev hk) h
  · exact hpending

/-- The cell changes by OBSERVE only by the step the decoder puts out. -/
theorem observe_ev_of_ne {p : Params} {a b : Bool} {k : Block} (h : (observe p a b k).ev ≠ k.ev) :
    mealyOut p k.hw (packCode a b) ≠ .none ∧
      (observe p a b k).ev = recordStep (mealyOut p k.hw (packCode a b)) k.ev := by
  rw [observe_ev] at h ⊢
  split at h
  · exact absurd rfl h
  · exact ⟨‹_›, if_neg ‹_›⟩

/-- READ and then OBSERVE: the sample finds the cleared cell and the same window. -/
theorem observe_takeEvent_ev (p : Params) (a b : Bool) (k : Block) :
    (observe p a b (takeEvent k)).ev =
      if mealyOut p k.hw (packCode a b) = .none then { k.ev with count := 0 }
      else recordStep (mealyOut p k.hw (packCode a b)) { k.ev with count := 0 } := by
  rw [observe_ev, takeEvent_hw, takeEvent_ev]

/-! ## The invariant of the block -/

/-- The part of the machine's invariant that speaks of the block: a window of rule R37 and a cell of rule R27. -/
abbrev Block.Inv (k : Block) : Prop := windowReachable k.hw = true ∧ k.ev.legal = true

theorem windowReachable_reset : windowReachable params.hwReset = true := by decide

theorem legal_iff (e : StepEvent) : e.legal = true ↔ (e.count ≠ 0 → e.dir ≠ .none) := by
  rw [StepEvent.legal, Bool.or_eq_true, beq_iff_eq, bne_iff_ne, or_iff_not_imp_left]

theorem legal_of_count_zero {e : StepEvent} (h : e.count = 0) : e.legal = true :=
  (legal_iff e).2 fun hpending => absurd h hpending

theorem legal_recordStep {d : Dir} (hd : d ≠ .none) (e : StepEvent) : (recordStep d e).legal = true :=
  (legal_iff _).2 fun _ => by rwa [recordStep_dir]

theorem runOp_inv (o : Op) {k : Block} (h : k.Inv) : (runOp params o k).1.Inv := by
  obtain ⟨hwindow, hlegal⟩ := h
  cases o with
  | observe a b =>
    refine ⟨by rw [runOp, observe_hw]; exact windowReachable_mealyNext hwindow _, ?_⟩
    rw [runOp, observe_ev]
    split
    · exact hlegal
    · exact legal_recordStep ‹_› k.ev
  | read => exact ⟨by rwa [runOp, takeEvent_hw], legal_of_count_zero (takeEvent_count k)⟩
  | reset => exact ⟨windowReachable_reset, legal_of_count_zero rfl⟩

theorem runOps_inv (ops : List Op) {k : Block} (h : k.Inv) : (runOps params ops k).1.Inv := by
  induction ops generalizing k with
  | nil => exact h
  | cons o os ih => exact ih (runOp_inv o h)

/-! ## The response words of legal cells -/

/-- The word of an event as a number: valid, tag and count in their places. -/
theorem encodeResult_event_toNat (d : Dir) (n : Count) :
    (encodeResult (.event d n)).toNat = 1024 + 256 * (dirBits d).toNat + n.toNat := by
  have htop : (1#1).toNat = 1 := rfl
  rw [encodeResult, toNat_append_eq_mul_add, toNat_append_eq_mul_add, htop]
  omega

theorem wellFormed_encodeResult_event {d : Dir} {n : Count} (hd : d ≠ .none) (hn : n ≠ 0) :
    Rsp.wellFormed (encodeResult (.event d n)) = true := by
  have hword := encodeResult_event_toNat d n
  have hpos : 0 < n.toNat := by bv_omega
  have hlt := n.isLt
  cases d with
  | none => exact absurd rfl hd
  | cw =>
    have htag : (dirBits .cw).toNat = 1 := rfl
    have h501 : 0x501 ≤ (encodeResult (.event .cw n)).toNat := by omega
    have h5FF : (encodeResult (.event .cw n)).toNat ≤ 0x5FF := by omega
    simp [Rsp.wellFormed, h501, h5FF]
  | ccw =>
    have htag : (dirBits .ccw).toNat = 2 := rfl
    have h601 : 0x601 ≤ (encodeResult (.event .ccw n)).toNat := by omega
    have h6FF : (encodeResult (.event .ccw n)).toNat ≤ 0x6FF := by omega
    simp [Rsp.wellFormed, h601, h6FF]

/-- READ of a legal cell answers one of the 511 words. -/
theorem wellFormed_readResult {k : Block} (h : k.ev.legal = true) :
    Rsp.wellFormed (encodeResult (readResult k)) = true := by
  obtain ⟨_, _, hread⟩ | ⟨hpending, _, hread⟩ := read_cases k
  · rw [hread]
    rfl
  · rw [hread]
    have hdir : k.ev.dir ≠ .none := (legal_iff k.ev).1 h hpending
    exact wellFormed_encodeResult_event hdir hpending

/-- Every instruction keeps the invariant. -/
theorem exec_next_inv {i : Instr} {s t : State} (hs : s.Inv) (h : exec i s = .next t) : t.Inv := by
  obtain ⟨hwindow, hlegal, hwords⟩ := hs
  obtain ⟨hwindow', hlegal'⟩ := runOps_inv (opsOf i) (k := s.block) ⟨hwindow, hlegal⟩
  rw [← exec_next_block h] at hwindow' hlegal'
  refine ⟨hwindow', hlegal', ?_⟩
  rw [exec_next_responses h, List.forall_mem_append, List.forall_mem_singleton]
  refine ⟨hwords, ?_⟩
  split
  · exact wellFormed_readResult hlegal
  · rfl

/-! ## Runs of the port -/

/-- A run of one more step goes on from the state that step leads to. -/
theorem run_succ_of_step {s t : State} (h : step s = .next t) (n : Nat) :
    Host.Core.run core (n + 1) s = Host.Core.run core n t := by
  have hstep : core.step s = .next t := h
  simp only [Host.Core.run, hstep]

/-- A command waiting next, or none, is IDLE if no waiting word raises a request line. -/
theorem decodeCmd_nextCmd_of_no_request {s : State} (h : ∀ w ∈ s.cmds, w &&& 0x1C = 0x00) :
    decodeCmd s.nextCmd = .idle := by
  apply decodeCmd_of_no_request
  rw [State.nextCmd]
  cases hcmds : s.cmds with
  | nil => rfl
  | cons w ws => exact h w (by simp [hcmds])

theorem run_idle_block (n : Nat) {s : State} (h : ∀ w ∈ s.cmds, w &&& 0x1C = 0x00) :
    ∃ t, Host.Core.run core n s = .next t ∧ t.block = s.block := by
  induction n generalizing s with
  | zero => exact ⟨s, rfl, rfl⟩
  | succ n ih =>
    have hstep : step s = .next (s.dropCmd.finish s.block none) := by
      rw [step, decodeCmd_nextCmd_of_no_request h]
      rfl
    rw [run_succ_of_step hstep]
    exact ih (s := s.dropCmd.finish s.block none) fun w hw => h w (List.mem_of_mem_tail hw)

/-- Stepping once per waiting command takes them all, gives one response word each, and answers what their operations answer. -/
theorem run_all_cmds (s : State) : ∃ t, Host.Core.run core s.cmds.length s = .next t ∧
    t.cmds = [] ∧ t.responses.length = s.responses.length + s.cmds.length ∧
    t.observed = s.observed ++ (runOps params (s.cmds.flatMap fun w => opsOf (decodeCmd w)) s.block).2 := by
  induction hcmds : s.cmds generalizing s with
  | nil => exact ⟨s, rfl, hcmds, by simp, by simp [runOps]⟩
  | cons w ws ih =>
    obtain ⟨u, hu⟩ := exec_total (decodeCmd w) { s with cmds := ws }
    obtain ⟨hport, -⟩ := exec_next_port hu
    have hresponses : u.responses.length = s.responses.length + 1 := by
      rw [exec_next_responses hu, List.length_append]
      rfl
    have hblock := exec_next_block hu
    have hobserved := exec_next_observed hu
    obtain ⟨t, hrun, hdone, hlength, hreads⟩ := ih u hport
    refine ⟨t, ?_, hdone, ?_, ?_⟩
    · rw [List.length_cons, run_succ_of_step ((step_of_cmds_cons hcmds).trans hu), hrun]
    · rw [hlength, hresponses, List.length_cons]
      omega
    · rw [hreads, hobserved, hblock, List.flatMap_cons, runOps_append, List.append_assoc]
      rfl

/-! ## The statements -/

/-- Settles O47: a step is an instruction, and its operations keep the block's part. -/
theorem everyStepKeepsTheInvariant : Obligations.EveryStepKeepsTheInvariant :=
  fun s _ hs hstep => exec_next_inv (s := s.dropCmd) hs hstep

/-- Settles O48: 0xFF is reachable, the cell empty, and no word given. -/
theorem resetMeetsTheInvariant : Obligations.ResetMeetsTheInvariant :=
  ⟨windowReachable_reset, legal_of_count_zero rfl, fun _ hr => absurd hr List.not_mem_nil⟩

/-- Settles O11: the block and the answers of an instruction are those of its operations. -/
theorem commandIsItsOperations : Obligations.CommandIsItsOperations := by
  intro i s
  obtain ⟨t, ht⟩ := exec_total i s
  exact ⟨t, ht, exec_next_block ht, exec_next_observed ht⟩

/-- Settles O16, by induction on the number of steps. -/
theorem idleHoldsTheBlock : Obligations.IdleHoldsTheBlock :=
  ⟨fun _ => rfl, fun n _ h => run_idle_block n h⟩

/-- Settles O38: the run is that of the commands' operations, whose READs answer as rule R147 says. -/
theorem portRunReportsTheLastUnbrokenRun : Obligations.PortRunReportsTheLastUnbrokenRun := by
  intro s hs
  rw [← runOps_answers_of_count_zero params _ hs]
  exact run_all_cmds s

/-- Settles O44: the only writers of the window are RESET and the Mealy machine. -/
theorem windowWrittenOnlyByChangedSample : Obligations.WindowWrittenOnlyByChangedSample := by
  intro i s t h hne
  obtain ⟨rfl, rfl⟩ | ⟨rfl, rfl⟩ | ⟨a, b, rfl, rfl⟩ | ⟨rfl, rfl⟩ | ⟨a, b, rfl, rfl⟩ := exec_next_cases h
  · exact .inl rfl
  · exact absurd rfl hne
  · rw [finish_block, observe_hw] at hne ⊢
    exact .inr ⟨a, b, .inl rfl, mealyNext_of_ne hne⟩
  · exact absurd (takeEvent_hw s.block) hne
  · rw [finish_block, observe_hw, takeEvent_hw] at hne ⊢
    exact .inr ⟨a, b, .inr rfl, mealyNext_of_ne hne⟩

/-- Settles O45: the only writers of the cell are RESET, READ of a pending event and a recorded step; in READ_OBSERVE the READ
comes first (decision D7, log entry 8). -/
theorem cellWrittenOnlyByItsThreeWriters : Obligations.CellWrittenOnlyByItsThreeWriters := by
  intro i s t h hne
  obtain ⟨rfl, rfl⟩ | ⟨rfl, rfl⟩ | ⟨a, b, rfl, rfl⟩ | ⟨rfl, rfl⟩ | ⟨a, b, rfl, rfl⟩ := exec_next_cases h
  · exact .inl rfl
  · exact absurd rfl hne
  · exact .inr (.inr (.inl ⟨a, b, rfl, observe_ev_of_ne hne⟩))
  · exact .inr (.inl ⟨rfl, count_ne_zero_of_takeEvent_ev_ne hne, takeEvent_ev s.block⟩)
  · have hev := observe_takeEvent_ev params a b s.block
    refine .inr (.inr (.inr ⟨a, b, rfl, ?_, hev⟩))
    by_contra hquiet
    obtain ⟨hcount, hout⟩ := not_or.1 hquiet
    rw [if_pos (not_not.1 hout), ← not_not.1 hcount] at hev
    exact hne hev

/-- Settles O34: READ_OBSERVE's sample is OBSERVE on the block its READ leaves, whose cell is empty. -/
theorem readObserveIsReadThenObserve : Obligations.ReadObserveIsReadThenObserve := by
  refine fun a b s => ⟨_, _, _, rfl, rfl, rfl, rfl, rfl, rfl, fun hout => ?_⟩
  rw [finish_block, observe_takeEvent_ev, if_neg hout, recordStep_of_count_zero _ rfl]

/-- Settles O41: RESET writes constants, and CMD[4] is looked at first. -/
theorem resetWritesTheWholeBlock : Obligations.ResetWritesTheWholeBlock :=
  ⟨fun _ => rfl, fun _ h => decodeCmd_of_rst h⟩

/-- Settles O42: both are the block of this hardware's parameters. -/
theorem machineStartsAsResetLeavesIt : Obligations.MachineStartsAsResetLeavesIt :=
  ⟨rfl, rfl, rfl, fun _ => rfl⟩

/-- Settles O46: no instruction fails, and each finishes with one answer. -/
theorem everyInstructionAnswersOnce : Obligations.EveryInstructionAnswersOnce := by
  intro i s
  obtain ⟨t, ht⟩ := exec_total i s
  exact ⟨t, ht, exec_next_port ht⟩

end Sys2Proof.Machine
end

section
/-! SUPPORT. The proofs of the statements about exchanging the two directions (30_encoding.md rule R72) and swapping the two phase
wires (70_reset_and_hazards.md rule R209). -/

namespace Sys2Proof.Machine

/-! ## Exchanging the references and the tags -/

theorem exchange_inj {d e : Dir} : d.exchange = e.exchange ↔ d = e := by cases d <;> cases e <;> decide

theorem exchange_eq_none_iff {d : Dir} : d.exchange = .none ↔ d = .none := by cases d <;> decide

/-- With the references exchanged every window is accepted in the other direction. -/
theorem classify_exchange {p : Params} (hp : p.refCw ≠ p.refCcw) (w : Window) :
    classify p.exchange w = (classify p w).exchange := by
  obtain ⟨rfl, hd⟩ | ⟨hccw, rfl, hd⟩ | ⟨hccw, hcw, hd⟩ := classify_cases p w
  · rw [hd, classify, exchange_refCcw, exchange_refCw, if_neg hp.symm, if_pos rfl]
    rfl
  · rw [hd, classify, exchange_refCcw, if_pos rfl]
    rfl
  · rw [hd, classify, exchange_refCcw, exchange_refCw, if_neg hcw, if_neg hccw]
    rfl

theorem mealyOut_exchange {p : Params} (hp : p.refCw ≠ p.refCcw) (h : Window) (c : Code) :
    mealyOut p.exchange h c = (mealyOut p h c).exchange := by
  rw [mealyOut, mealyOut, classify_exchange hp]
  split <;> rfl

/-- The cell with the tag exchanged. -/
def StepEvent.exchange (e : StepEvent) : StepEvent := { e with dir := e.dir.exchange }

/-- RECORD_STEP compares tags for equality and treats the two directions alike. -/
theorem recordStep_exchange (d : Dir) (e : StepEvent) :
    recordStep d.exchange e.exchange = (recordStep d e).exchange := by
  have hdir : e.exchange.dir = d.exchange ↔ e.dir = d := exchange_inj
  have hfull : isSaturated e.exchange = isSaturated e := rfl
  rw [recordStep, recordStep, hfull]
  simp only [hdir]
  split_ifs <;> rfl

theorem block_exchange_eq (k : Block) : k.exchange = { hw := k.hw, ev := k.ev.exchange } := rfl

theorem observe_exchange {p : Params} (hp : p.refCw ≠ p.refCcw) (a b : Bool) (k : Block) :
    observe p.exchange a b k.exchange = (observe p a b k).exchange := by
  simp only [observe_eq, block_exchange_eq, mealyOut_exchange hp, exchange_eq_none_iff, recordStep_exchange]
  split_ifs <;> rfl

theorem takeEvent_exchange (k : Block) : takeEvent k.exchange = (takeEvent k).exchange := by
  rw [takeEvent_eq, takeEvent_eq]
  rfl

theorem readResult_exchange (k : Block) : readResult k.exchange = (readResult k).exchange := by
  have hempty : isEmpty k.exchange.ev = isEmpty k.ev := rfl
  rw [readResult, readResult, hempty]
  split_ifs <;> rfl

theorem runOp_exchange {p : Params} (hp : p.refCw ≠ p.refCcw) (o : Op) (k : Block) :
    runOp p.exchange o k.exchange = ((runOp p o k).1.exchange, (runOp p o k).2.map ReadResult.exchange) := by
  cases o with
  | observe a b => rw [runOp, runOp, observe_exchange hp, Option.map_none]
  | read => rw [runOp, runOp, takeEvent_exchange, readResult_exchange, Option.map_some]
  | reset => rfl

theorem runOps_exchange {p : Params} (hp : p.refCw ≠ p.refCcw) (ops : List Op) (k : Block) :
    runOps p.exchange ops k.exchange =
      ((runOps p ops k).1.exchange, (runOps p ops k).2.map ReadResult.exchange) := by
  induction ops generalizing k with
  | nil => rfl
  | cons o os ih =>
    simp only [runOps, runOp_exchange hp, ih, List.map_append, Option.toList_map]

/-! ## Swapping the wires -/

/-- The code of the swapped levels. -/
def swapCode (c : Code) : Code := packCode (codeB c) (codeA c)

/-- The window of the swapped codes. -/
def swapWindow (h : Window) : Window :=
  windowOf (swapCode (slot h 3)) (swapCode (slot h 2)) (swapCode (slot h 1)) (swapCode (slot h 0))

theorem swapCode_packCode (a b : Bool) : swapCode (packCode a b) = packCode b a := by
  rw [swapCode, codeA_packCode, codeB_packCode]

theorem swapCode_swapCode (c : Code) : swapCode (swapCode c) = c := by
  rw [swapCode.eq_1 c, swapCode_packCode, packCode_code]

theorem swapCode_inj {c d : Code} : swapCode c = swapCode d ↔ c = d :=
  (Function.Involutive.injective swapCode_swapCode).eq_iff

/-- Swapping the wires of all samples swaps each slot. -/
theorem slots_swapWindow (h : Window) : slot (swapWindow h) 0 = swapCode (slot h 0) ∧
    slot (swapWindow h) 1 = swapCode (slot h 1) ∧ slot (swapWindow h) 2 = swapCode (slot h 2) ∧
    slot (swapWindow h) 3 = swapCode (slot h 3) := slots_windowOf _ _ _ _

theorem swapWindow_swapWindow (h : Window) : swapWindow (swapWindow h) = h := by
  obtain ⟨h0, h1, h2, h3⟩ := slots_swapWindow h
  rw [swapWindow, h0, h1, h2, h3]
  simp only [swapCode_swapCode, windowOf_slots]

theorem shiftIn_swap (h : Window) (c : Code) : shiftIn (swapWindow h) (swapCode c) = swapWindow (shiftIn h c) := by
  obtain ⟨h0, h1, h2, -⟩ := slots_swapWindow h
  rw [shiftIn_eq_windowOf, h0, h1, h2, swapWindow, slot_zero_shiftIn, slot_one_shiftIn, slot_two_shiftIn,
    slot_three_shiftIn]

theorem mealyNext_swap (h : Window) (c : Code) : mealyNext (swapWindow h) (swapCode c) = swapWindow (mealyNext h c) := by
  obtain ⟨h0, -, -, -⟩ := slots_swapWindow h
  simp only [mealyNext, h0, swapCode_inj, shiftIn_swap]
  split <;> rfl

/-- The block whose window is that of the swapped wires. -/
def Block.swapWires (k : Block) : Block := { k with hw := swapWindow k.hw }

/-- Each admitted reset window stays as it is when the wires are swapped. -/
theorem ofParams_swapWires {p : Params} (hreset : p.hwResetWellFormed = true) :
    (Block.ofParams p).swapWires = Block.ofParams p := by
  have hfixed : swapWindow p.hwReset = p.hwReset := by
    obtain h | h : p.hwReset = 0x00 ∨ p.hwReset = 0xFF := by simpa [Params.hwResetWellFormed] using hreset
    all_goals rw [h]; decide
  rw [Block.swapWires, ofParams_hw, hfixed]
  rfl

section
variable {p : Params} (hp : p.refsWellFormed = true)
include hp

/-- Swapping the wires makes each reference of an admitted pair the other one. -/
theorem swapWindow_refs : swapWindow p.refCw = p.refCcw ∧ swapWindow p.refCcw = p.refCw := by
  obtain ⟨hcw, hccw⟩ | ⟨hcw, hccw⟩ := refsWellFormed_cases hp <;> rw [hcw, hccw] <;> decide

/-- So the swapped window is accepted as the window is with the references exchanged. -/
theorem classify_swap (w : Window) : classify p (swapWindow w) = classify p.exchange w := by
  obtain ⟨hcw, hccw⟩ := swapWindow_refs hp
  have hswap : ∀ v, swapWindow w = v ↔ w = swapWindow v :=
    fun _ => Function.Involutive.eq_iff swapWindow_swapWindow
  have hfirst : swapWindow w = p.refCcw ↔ w = p.exchange.refCcw := by rw [hswap, hccw, exchange_refCcw]
  have hsecond : swapWindow w = p.refCw ↔ w = p.exchange.refCw := by rw [hswap, hcw, exchange_refCw]
  rw [classify, classify]
  exact if_congr hfirst rfl (if_congr hsecond rfl rfl)

theorem mealyOut_swap (h : Window) (c : Code) : mealyOut p (swapWindow h) (swapCode c) = mealyOut p.exchange h c := by
  obtain ⟨h0, -, -, -⟩ := slots_swapWindow h
  simp only [mealyOut, h0, swapCode_inj, shiftIn_swap, classify_swap hp]

theorem observe_swap (a b : Bool) (k : Block) :
    observe p b a k.swapWires = (observe p.exchange a b k).swapWires := by
  simp only [observe_eq, Block.swapWires, ← swapCode_packCode a b, mealyNext_swap, mealyOut_swap hp]

variable (hreset : p.hwResetWellFormed = true)
include hreset

/-- An operation on swapped wires is the operation with the references exchanged. -/
theorem runOp_swap (o : Op) (k : Block) :
    runOp p o.swapWires k.swapWires = ((runOp p.exchange o k).1.swapWires, (runOp p.exchange o k).2) := by
  cases o with
  | observe a b => rw [Op.swapWires, runOp, runOp, observe_swap hp]
  | read => rw [Op.swapWires, runOp, runOp, takeEvent_eq, takeEvent_eq]; rfl
  | reset => exact congrArg (·, none) (ofParams_swapWires hreset).symm

theorem runOps_swap (ops : List Op) (k : Block) :
    runOps p (ops.map Op.swapWires) k.swapWires =
      ((runOps p.exchange ops k).1.swapWires, (runOps p.exchange ops k).2) := by
  induction ops generalizing k with
  | nil => rfl
  | cons o os ih => simp only [List.map_cons, runOps, runOp_swap hp hreset, ih]

end

/-! ## The statements -/

/-- Settles O49: the comparisons with the references and with the tag exchange together. -/
theorem exchangingReferencesExchangesTags : Obligations.ExchangingReferencesExchangesTags :=
  fun _ ops k hp => runOps_exchange hp ops k

/-- Settles O50: swapping the wires acts as exchanging the references, and that exchanges the tags. -/
theorem swappingWiresExchangesDirections : Obligations.SwappingWiresExchangesDirections := by
  intro p ops hp
  obtain ⟨hrefs, hreset⟩ : p.refsWellFormed = true ∧ p.hwResetWellFormed = true := by
    simpa [Params.wellFormed] using hp
  have hne : p.refCw ≠ p.refCcw := by
    obtain ⟨hcw, hccw⟩ | ⟨hcw, hccw⟩ := refsWellFormed_cases hrefs <;> rw [hcw, hccw] <;> decide
  have hnoTag : (Block.ofParams p).exchange = Block.ofParams p := rfl
  calc (runOps p (ops.map Op.swapWires) (Block.ofParams p)).2
    _ = (runOps p (ops.map Op.swapWires) (Block.ofParams p).swapWires).2 := by rw [ofParams_swapWires hreset]
    _ = (runOps p.exchange ops (Block.ofParams p).exchange).2 := by rw [runOps_swap hrefs hreset, hnoTag]
    _ = (runOps p ops (Block.ofParams p)).2.map ReadResult.exchange := by rw [runOps_exchange hne]

end Sys2Proof.Machine
end

section
/-! SUPPORT. The proofs of the statements about READs among samples: they lose no step (95_test_vectors.md vector V31) and do not
touch the window (20_memory.md section 3). -/

namespace Sys2Proof.Machine

/-! ## The window under interleaved READs -/

/-- What an operation does to the window depends on the window alone. -/
theorem runOp_hw_congr (p : Params) (o : Op) {k j : Block} (h : k.hw = j.hw) :
    (runOp p o k).1.hw = (runOp p o j).1.hw := by
  cases o with
  | observe a b => rw [runOp, runOp, observe_hw, observe_hw, h]
  | read => rw [runOp, runOp, takeEvent_hw, takeEvent_hw, h]
  | reset => rfl

/-- READs interleaved with a producer's operations leave the window as these alone do. -/
theorem runOps_hw_of_interleaves (p : Params) {ps cs ms : List Op} (h : Interleaves ps cs ms)
    (hreads : ∀ o ∈ cs, o = .read) {k j : Block} (hkj : k.hw = j.hw) : (runOps p ms k).1.hw = (runOps p ps j).1.hw := by
  induction h generalizing k j with
  | done => exact hkj
  | left o _ ih => exact ih hreads (runOp_hw_congr p o hkj)
  | right o _ ih =>
    obtain ⟨rfl, hrest⟩ := List.forall_mem_cons.1 hreads
    exact ih hrest ((takeEvent_hw k).trans hkj)

/-! ## Counting steps one way -/

/-- READ reports the count. -/
theorem reported_readResult (k : Block) : reported (readResult k) = k.ev.count.toNat := by
  obtain ⟨hempty, _, hread⟩ | ⟨_, _, hread⟩ := read_cases k
  · rw [hread, hempty]
    rfl
  · rw [hread, reported]

/-- A step the pending run's way, with room for it, is counted. -/
theorem recordStep_counts {d : Dir} {e : StepEvent} (hdir : e.count ≠ 0 → e.dir = d) (hroom : e.count.toNat < 255) :
    (recordStep d e).count.toNat = e.count.toNat + 1 := by
  by_cases h0 : e.count = 0
  · rw [recordStep_of_count_zero d h0, h0]
    rfl
  · obtain rfl := hdir h0
    rw [recordStep_same_dir e.dir e.count, toNat_ofNat_clamped, Nat.min_eq_left (by omega)]

/-- Operations without reset, all of whose steps go the pending run's way and fit within 255. -/
structure OneWay (p : Params) (d : Dir) (ops : List Op) (k : Block) : Prop where
  noReset : ∀ o ∈ ops, o ≠ .reset
  steps : ∀ x ∈ stepsRecorded p k.hw ops, x = d
  pending : k.ev.count ≠ 0 → k.ev.dir = d
  room : k.ev.count.toNat + (stepsRecorded p k.hw ops).length ≤ 255

/-- What is reported and pending after an operation, and the steps still to come, make up what was pending and to come before. -/
abbrev NothingLost (p : Params) (o : Op) (os : List Op) (k : Block) : Prop :=
  ((runOp p o k).2.toList.map reported).sum + (runOp p o k).1.ev.count.toNat +
      (stepsRecorded p (runOp p o k).1.hw os).length =
    k.ev.count.toNat + (stepsRecorded p k.hw (o :: os)).length

section
variable {p : Params} {d : Dir} {os : List Op} {k : Block}

theorem OneWay.after_read (h : OneWay p d (.read :: os) k) :
    OneWay p d os (runOp p .read k).1 ∧ NothingLost p .read os k := by
  obtain ⟨hreset, hsteps, -, hroom⟩ := h
  have hhw : (runOp p .read k).1.hw = k.hw := takeEvent_hw k
  have hcount : (runOp p .read k).1.ev.count = 0 := takeEvent_count k
  have hrest : stepsRecorded p k.hw (.read :: os) = stepsRecorded p k.hw os := rfl
  have hread : ((runOp p .read k).2.toList.map reported).sum = k.ev.count.toNat := by
    simp [runOp, reported_readResult]
  have hzero : (runOp p .read k).1.ev.count.toNat = 0 := by rw [hcount]; rfl
  rw [hrest] at hsteps hroom
  refine ⟨⟨fun o ho => hreset o (List.mem_cons_of_mem _ ho), by rwa [hhw], absurd hcount, ?_⟩, ?_⟩
  · rw [hhw]
    omega
  · rw [NothingLost, hread, hhw, hzero, hrest, Nat.add_zero]

theorem OneWay.after_observe {a b : Bool} (h : OneWay p d (.observe a b :: os) k) :
    OneWay p d os (runOp p (.observe a b) k).1 ∧ NothingLost p (.observe a b) os k := by
  obtain ⟨hreset, hsteps, hpending, hroom⟩ := h
  have hnoReset : ∀ o ∈ os, o ≠ .reset := fun o ho => hreset o (List.mem_cons_of_mem _ ho)
  have hrun : runOp p (.observe a b) k = (observe p a b k, none) := rfl
  rw [NothingLost, hrun, stepsRecorded, Option.toList_none, List.map_nil, List.sum_nil, Nat.zero_add]
  rw [stepsRecorded] at hsteps hroom
  have hhw := observe_hw p a b k
  have hev := observe_ev p a b k
  by_cases hout : mealyOut p k.hw (packCode a b) = .none
  · rw [if_pos hout, List.nil_append] at hsteps hroom ⊢
    rw [if_pos hout] at hev
    exact ⟨⟨hnoReset, by rwa [hhw], by rwa [hev], by rwa [hhw, hev]⟩, by rw [hhw, hev]⟩
  · rw [if_neg hout, List.singleton_append] at hsteps hroom ⊢
    obtain ⟨hdir, hsteps⟩ := List.forall_mem_cons.1 hsteps
    rw [List.length_cons] at hroom ⊢
    rw [if_neg hout, hdir] at hev
    have hcount := recordStep_counts hpending (by omega)
    rw [← hev] at hcount
    refine ⟨⟨hnoReset, by rwa [hhw], fun _ => by rw [hev, recordStep_dir], ?_⟩, ?_⟩
    · rw [hhw, hcount]
      omega
    · rw [hhw, hcount]
      omega

theorem OneWay.after {o : Op} (h : OneWay p d (o :: os) k) : OneWay p d os (runOp p o k).1 ∧ NothingLost p o os k := by
  cases o with
  | observe a b => exact h.after_observe
  | read => exact h.after_read
  | reset => exact absurd rfl (h.noReset _ List.mem_cons_self)

theorem runOps_of_oneWay {ops : List Op} (h : OneWay p d ops k) :
    ((runOps p ops k).2.map reported).sum + (runOps p ops k).1.ev.count.toNat =
      k.ev.count.toNat + (stepsRecorded p k.hw ops).length := by
  induction ops generalizing k with
  | nil => simp [runOps, stepsRecorded]
  | cons o os ih =>
    obtain ⟨hrest, hfirst⟩ := h.after
    rw [← hfirst, Nat.add_assoc, ← ih hrest, runOps, List.map_append, List.sum_append, Nat.add_assoc]

end

/-! ## The statements -/

/-- Settles O40: the window follows the producer's operations, and a READ leaves it. -/
theorem readsNeverDisturbDecoding : Obligations.ReadsNeverDisturbDecoding :=
  fun p _ _ _ _ h hreads => runOps_hw_of_interleaves p h hreads rfl

/-- Settles O39, by induction on the operations: each keeps reported, pending and coming steps together. -/
theorem noStepLostWithoutReversalOrSaturation : Obligations.NoStepLostWithoutReversalOrSaturation :=
  fun _ _ _ _ hreset hsteps hpending hroom => runOps_of_oneWay ⟨hreset, hsteps, hpending, hroom⟩

end Sys2Proof.Machine
end

section
/-! SUPPORT. The proofs of the statements about the split READ (20_memory.md section 4; 60_exceptions.md rules R174 to R178; log
entries 11, 12). -/

namespace Sys2Proof.Machine

/-! ## Single moves -/

/-- Every move keeps the producer shut out of a READ in progress: CS_ENTER clears PE, only CS_EXIT and the host set it, and
these leave or find no READ in progress. -/
theorem splitStep_inv {p : Params} {m : SplitMove} {s t : SplitState} (hs : s.Inv) (h : splitStep p m s = some t) :
    t.Inv := by
  have hshut : s.phase ≠ .outside → s.pe = false := hs.resolve_left
  obtain ⟨-, -, rfl⟩ | ⟨v, -, hph, -, rfl⟩ | ⟨v, -, hph, -, rfl⟩ | ⟨v, d, n, -, hph, rfl⟩ | ⟨v, r, -, -, rfl⟩ |
    ⟨a, b, -, -, rfl⟩ | ⟨a, b, -, -, rfl⟩ | ⟨v, -, hph, rfl⟩ := splitStep_cases h
  · exact .inr rfl
  · exact .inr (hshut (by simp [hph]))
  · exact .inr (hshut (by simp [hph]))
  · exact .inr (hshut (by simp [hph]))
  · exact .inl rfl
  · exact hs
  · exact hs
  · exact .inl hph

/-- With no READ in progress a producer's move is OBSERVE. -/
theorem asIndivisible_of_observe {p : Params} {a b : Bool} {s t : SplitState} (hph : s.phase = .outside)
    (ht : t = { s with block := observe p a b s.block }) :
    t.asIndivisible.1 = (runOps p [.observe a b] s.asIndivisible.1).1 ∧
      t.asIndivisible.2 = s.asIndivisible.2 ++ (runOps p [.observe a b] s.asIndivisible.1).2 := by
  have htph : t.phase = .outside := by rw [ht, hph]
  rw [SplitState.asIndivisible_outside hph, SplitState.asIndivisible_outside htph, ht]
  exact ⟨rfl, (List.append_nil _).symm⟩

/-- Every move does to the indivisible view what its operations do. The producer's move needs that a READ in progress shuts the
producer out. -/
theorem splitStep_asIndivisible {p : Params} {m : SplitMove} {s t : SplitState} (hs : s.Inv)
    (h : splitStep p m s = some t) :
    t.asIndivisible.1 = (runOps p m.ops s.asIndivisible.1).1 ∧
      t.asIndivisible.2 = s.asIndivisible.2 ++ (runOps p m.ops s.asIndivisible.1).2 := by
  obtain ⟨rfl, hph, rfl⟩ | ⟨v, rfl, hph, hempty, rfl⟩ | ⟨v, rfl, hph, hpending, rfl⟩ | ⟨v, d, n, rfl, hph, rfl⟩ |
    ⟨v, r, rfl, hph, rfl⟩ | ⟨a, b, rfl, hpe, rfl⟩ | ⟨a, b, rfl, hph, rfl⟩ | ⟨v, rfl, hph, rfl⟩ := splitStep_cases h
  · rw [SplitState.asIndivisible_outside hph]
    exact ⟨rfl, rfl⟩
  · rw [SplitState.asIndivisible_entered hph, takeEvent, readResult, if_pos hempty, if_pos hempty]
    exact ⟨rfl, (List.append_nil _).symm⟩
  · have hread : readResult s.block = .event s.block.ev.dir s.block.ev.count := by
      rw [readResult, hpending, if_neg Bool.false_ne_true]
    rw [SplitState.asIndivisible_entered hph, hread]
    exact ⟨rfl, (List.append_nil _).symm⟩
  · rw [SplitState.asIndivisible_copied hph, takeEvent_eq]
    exact ⟨rfl, (List.append_nil _).symm⟩
  · rw [SplitState.asIndivisible_leaving hph]
    exact ⟨rfl, (List.append_nil _).symm⟩
  · have hph : s.phase = .outside := hs.resolve_right (by simp [hpe])
    exact asIndivisible_of_observe hph rfl
  · exact asIndivisible_of_observe hph rfl
  · rw [SplitState.asIndivisible_outside hph, SplitState.asIndivisible_outside (s := { s with pe := v }) hph]
    exact ⟨rfl, (List.append_nil _).symm⟩

/-- The PE the host has chosen: what CS_EXIT will restore while a READ is in progress, else what stands. -/
def SplitState.hostPe (s : SplitState) : Bool :=
  match s.phase with
  | .outside => s.pe
  | .entered v => v
  | .copied v _ _ => v
  | .leaving v _ => v

theorem hostPe_of_outside {s : SplitState} (h : s.phase = .outside) : s.hostPe = s.pe := by simp [SplitState.hostPe, h]

/-- Only the host's own move changes the PE it has chosen. -/
theorem splitStep_hostPe {p : Params} {m : SplitMove} {s t : SplitState} (hm : ∀ v, m ≠ .hostSet v)
    (h : splitStep p m s = some t) : t.hostPe = s.hostPe := by
  obtain ⟨-, hph, rfl⟩ | ⟨v, -, hph, -, rfl⟩ | ⟨v, -, hph, -, rfl⟩ | ⟨v, d, n, -, hph, rfl⟩ | ⟨v, r, -, hph, rfl⟩ |
    ⟨a, b, -, -, rfl⟩ | ⟨a, b, -, -, rfl⟩ | ⟨v, rfl, -, rfl⟩ := splitStep_cases h
  · simp [SplitState.hostPe, hph]
  · simp [SplitState.hostPe, hph]
  · simp [SplitState.hostPe, hph]
  · simp [SplitState.hostPe, hph]
  · simp [SplitState.hostPe, hph]
  · rfl
  · rfl
  · exact absurd rfl (hm v)

/-- While a READ is in progress and PE clear no producer has a move. -/
theorem splitStep_producer_none (p : Params) (a b : Bool) {s : SplitState} (hpe : s.pe = false)
    (hph : s.phase ≠ .outside) : splitStep p (.sample a b) s = none ∧ splitStep p (.poll a b) s = none := by
  obtain ⟨k, pe, ph, as⟩ := s
  obtain rfl : pe = false := hpe
  cases ph with
  | outside => exact absurd rfl hph
  | entered | copied | leaving => exact ⟨rfl, rfl⟩

/-! ## Lists of moves -/

theorem splitRun_cons_eq_some {p : Params} {m : SplitMove} {ms : List SplitMove} {s t : SplitState}
    (h : splitRun p (m :: ms) s = some t) : ∃ u, splitStep p m s = some u ∧ splitRun p ms u = some t :=
  Option.bind_eq_some_iff.1 h

theorem splitRun_asIndivisible {p : Params} {ms : List SplitMove} {s t : SplitState} (hs : s.Inv)
    (h : splitRun p ms s = some t) :
    t.asIndivisible.1 = (runOps p (ms.flatMap SplitMove.ops) s.asIndivisible.1).1 ∧
      t.asIndivisible.2 = s.asIndivisible.2 ++ (runOps p (ms.flatMap SplitMove.ops) s.asIndivisible.1).2 := by
  induction ms generalizing s with
  | nil =>
    obtain rfl : s = t := Option.some.inj h
    exact ⟨rfl, (List.append_nil _).symm⟩
  | cons m ms ih =>
    obtain ⟨u, hstep, hrun⟩ := splitRun_cons_eq_some h
    obtain ⟨hblock, hanswers⟩ := splitStep_asIndivisible hs hstep
    obtain ⟨hblock', hanswers'⟩ := ih (splitStep_inv hs hstep) hrun
    rw [List.flatMap_cons, runOps_append, hblock', hanswers', hblock, hanswers, List.append_assoc]
    exact ⟨rfl, rfl⟩

theorem splitRun_hostPe {p : Params} {ms : List SplitMove} {s t : SplitState} (hms : ∀ v, .hostSet v ∉ ms)
    (h : splitRun p ms s = some t) : t.hostPe = s.hostPe := by
  induction ms generalizing s with
  | nil =>
    obtain rfl : s = t := Option.some.inj h
    rfl
  | cons m ms ih =>
    obtain ⟨u, hstep, hrun⟩ := splitRun_cons_eq_some h
    have hm : ∀ v, m ≠ .hostSet v := fun v hv => hms v (hv ▸ List.mem_cons_self)
    rw [ih (fun v hv => hms v (List.mem_cons_of_mem _ hv)) hrun, splitStep_hostPe hm hstep]

/-! ## The statements -/

/-- Settles O58: a case per move; each keeps the producer shut out and acts on the indivisible view as its operations. -/
theorem everySplitMoveIsItsOperations : Obligations.EverySplitMoveIsItsOperations :=
  fun _ _ _ _ hs h => ⟨splitStep_inv hs h, splitStep_asIndivisible hs h⟩

/-- Settles O52, by induction on the moves: with no READ in progress the indivisible view is the state's own. -/
theorem splitReadIsReadAtItsEntry : Obligations.SplitReadIsReadAtItsEntry := by
  intro p ms s t hs h ht
  have hrun := splitRun_asIndivisible (.inl hs) h
  rwa [SplitState.asIndivisible_outside hs, SplitState.asIndivisible_outside ht] at hrun

/-- Settles O53, by induction on the moves: none of them changes the PE that stands or is saved. -/
theorem splitReadRestoresProducerEnable : Obligations.SplitReadRestoresProducerEnable := by
  intro p ms s t hs h ht hms
  rw [← hostPe_of_outside ht, splitRun_hostPe hms h, hostPe_of_outside hs]

/-- Settles O54: the invariant of every move, and in a READ it leaves PE clear. -/
theorem producerShutOutDuringSplitRead : Obligations.ProducerShutOutDuringSplitRead :=
  ⟨fun _ _ _ _ hs h => splitStep_inv hs h,
    fun p a b _ hs hph => splitStep_producer_none p a b (hs.resolve_left hph) hph⟩

/-- Settles O51: the moves one after the other, the middle one or two by the count. -/
theorem splitReadRunsToItsEnd : Obligations.SplitReadRunsToItsEnd := by
  rintro p ⟨k, pe, ph, as⟩ hph
  obtain rfl : ph = .outside := hph
  constructor
  · intro h0
    have hempty : isEmpty k.ev = true := (isEmpty_iff_count k.ev).2 h0
    simp [splitRun, splitStep, hempty]
  · intro h0
    have hempty : isEmpty k.ev ≠ true := fun h => h0 ((isEmpty_iff_count k.ev).1 h)
    simp [splitRun, splitStep, hempty]

/-- Settles O55: CS_EXIT restores the saved PE, and PE alone decides whether an asynchronous sample is possible. -/
theorem deferredSampleMayFollowTheExit : Obligations.DeferredSampleMayFollowTheExit := by
  rintro p a b saved r ⟨k, pe, ph, as⟩ hph
  obtain rfl : ph = .leaving saved r := hph
  exact ⟨_, rfl, rfl, rfl, rfl⟩

end Sys2Proof.Machine
end
